-- ==== Sys2Proof/Word.lean ====
section
/-! DEFINITION. The word types of SFXR-CORE and the names of its four rounded binary64 operators. -/

namespace Sys2Proof

/-- One byte of the PCM memory (20_memory R60). -/
abbrev Byte := BitVec 8

/-- One 32-bit word on the host bus: a header H, or one half of a data word D (30_encoding R80). -/
abbrev Word := BitVec 32

/-- A 64-bit REG word: the width of every register access (20_memory R61). -/
abbrev Reg64 := BitVec 64

/-- `f64`: an IEEE-754 binary64 bit pattern (00_scope R12, 10_state R21). -/
abbrev F64 := BitVec 64

/-- `f32`: an IEEE-754 binary32 bit pattern (00_scope R12). -/
abbrev F32 := BitVec 32

/-- The four rounded operators of 00_scope R13; the tag tells the free NaN of one from that of another. -/
inductive ArithOp where
  | add | sub | mul | div
deriving DecidableEq, Repr

end Sys2Proof
end

