-- ==== Sys2Proof/Syntax.lean ====
section
/-! DEFINITION. The instructions of SFXR-CORE (00_scope R2): host bus transactions, command codes and wave-shape
codes, one constructor per row of the opcode table. -/

namespace Sys2Proof

/-- One constructor per row of the opcode table. `addr` is the header's ADDR field, `d` the data word D, `hi` the
ignored bits D[63:8] of a command (30_encoding R80, R84). The wave-shape codes are the instructions of the block's
own step: the code in WAVE_TYPE selects the oscillator operation of the tick (30_encoding R85, log 1). -/
inductive Instr where
  /-- REG_RD (40_host_ops R100). -/
  | regRd (addr : BitVec 24)
  /-- REG_WR of an address other than CMD (40_host_ops R101). -/
  | regWr (addr : BitVec 24) (d : Reg64)
  /-- PCM_RD (40_host_ops R107). -/
  | pcmRd (addr : BitVec 24)
  /-- NORM_RD (40_host_ops R108). -/
  | normRd (addr : BitVec 24)
  /-- A reserved header: a reserved OP, or RSV other than 0 (40_host_ops R109, 20_memory R64 (e)). -/
  | reservedOp (h : Word)
  /-- Command 0x00, NOP (40_host_ops R103). -/
  | cmdNop (hi : BitVec 56)
  /-- Command 0x01, START (40_host_ops R104). -/
  | cmdStart (hi : BitVec 56)
  /-- Command 0x02, RESET (40_host_ops R105). -/
  | cmdReset (hi : BitVec 56)
  /-- Commands 0x03 to 0xFF (40_host_ops R106). -/
  | cmdReserved (hi : BitVec 56) (code : BitVec 8)
  /-- WAVE_TYPE = 0 (42_oscillator R153). -/
  | waveSquare
  /-- WAVE_TYPE = 1 (42_oscillator R154). -/
  | waveSaw
  /-- WAVE_TYPE = 2 (42_oscillator R155). -/
  | waveSine
  /-- WAVE_TYPE = 3 (42_oscillator R156). -/
  | waveNoise
  /-- WAVE_TYPE of 4 or more (42_oscillator R151). -/
  | waveIllegal (code : Word)
deriving DecidableEq, Repr

/-- Where an instruction's words stand: on the host bus, or in the register WAVE_TYPE (30_encoding R80, R85). -/
inductive Port where
  | bus | waveType
deriving DecidableEq, Repr

/-- The port an instruction is read from. -/
def Instr.port : Instr → Port
  | .regRd _ => .bus
  | .regWr _ _ => .bus
  | .pcmRd _ => .bus
  | .normRd _ => .bus
  | .reservedOp _ => .bus
  | .cmdNop _ => .bus
  | .cmdStart _ => .bus
  | .cmdReset _ => .bus
  | .cmdReserved _ _ => .bus
  | .waveSquare => .waveType
  | .waveSaw => .waveType
  | .waveSine => .waveType
  | .waveNoise => .waveType
  | .waveIllegal _ => .waveType

end Sys2Proof
end

