-- ==== Sys2Proof/WellFormed.lean ====
section
/-! DEFINITION. The well-formed instructions: those that some words of the encoding stand for. -/

namespace Sys2Proof

/-- A header is reserved when RSV is not 0 or OP is not one of the four transactions (30_encoding R81). -/
def reservedHeader (h : Word) : Bool :=
  h.extractLsb' 24 4 != 0#4 ||
    !(h.extractLsb' 28 4 == 1#4 || h.extractLsb' 28 4 == 2#4 ||
      h.extractLsb' 28 4 == 3#4 || h.extractLsb' 28 4 == 4#4)

/-- The register index of CMD as a whole ADDR field (30_encoding R84). -/
def cmdAddr : BitVec 24 := 0x000001#24

/-- An instruction is well formed when its operands are in the row's own range: a REG_WR to CMD is a command row, a
reserved header is no transaction's, a reserved command is 3 or more, an illegal wave code is 4 or more. -/
def Instr.wellFormed : Instr → Bool
  | .regRd _ => true
  | .regWr addr _ => addr != cmdAddr
  | .pcmRd _ => true
  | .normRd _ => true
  | .reservedOp h => reservedHeader h
  | .cmdNop _ => true
  | .cmdStart _ => true
  | .cmdReset _ => true
  | .cmdReserved _ code => decide (3 ≤ code.toNat)
  | .waveSquare => true
  | .waveSaw => true
  | .waveSine => true
  | .waveNoise => true
  | .waveIllegal code => decide (4 ≤ code.toNat)

end Sys2Proof
end

