-- ==== Sys2Proof/Decode.lean ====
section
/-! DEFINITION. Decoding of the host bus and of WAVE_TYPE, total on any words, and the encoder. -/

namespace Sys2Proof

/-- H[31:28] (30_encoding R80). -/
def opField (h : Word) : BitVec 4 := h.extractLsb' 28 4

/-- H[27:24], reserved (30_encoding R80). -/
def rsvField (h : Word) : BitVec 4 := h.extractLsb' 24 4

/-- H[23:0] (30_encoding R80). -/
def addrField (h : Word) : BitVec 24 := h.extractLsb' 0 24

/-- The length of a transaction in bus words, told from H[31:24] alone (30_encoding R86). -/
def transactionWords (h : Word) : Nat :=
  if h.extractLsb' 24 8 = 0x20#8 then 3 else 1

/-- What the decoder reads from the words of a port. -/
inductive Decoded where
  /-- An instruction, and the words that follow it. -/
  | instr (i : Instr) (rest : List Word)
  /-- There is no word to decode. -/
  | noTransaction
  /-- A REG_WR header whose data word D has not arrived whole. -/
  | missingData
deriving DecidableEq, Repr

/-- The command a REG_WR to CMD with data D gives (30_encoding R84). -/
def decodeCommand (d : Reg64) : Instr :=
  let hi := d.extractLsb' 8 56
  match (d.extractLsb' 0 8).toNat with
  | 0 => .cmdNop hi
  | 1 => .cmdStart hi
  | 2 => .cmdReset hi
  | _ => .cmdReserved hi (d.extractLsb' 0 8)

/-- A REG_WR is a command when its ADDR is CMD's, a plain register write otherwise (30_encoding R82, R84). -/
def decodeRegWr (addr : BitVec 24) (d : Reg64) : Instr :=
  if addr = cmdAddr then decodeCommand d else .regWr addr d

/-- Decoding the words on the host bus (30_encoding R80 to R84, R86; 40_host_ops R109). D follows H as two words,
low word first (log 2). -/
def decodeBus : List Word → Decoded
  | [] => .noTransaction
  | h :: rest =>
    if rsvField h = 0#4 then
      match (opField h).toNat with
      | 1 => .instr (.regRd (addrField h)) rest
      | 2 =>
        match rest with
        | lo :: hi :: rest' => .instr (decodeRegWr (addrField h) (hi ++ lo)) rest'
        | _ => .missingData
      | 3 => .instr (.pcmRd (addrField h)) rest
      | 4 => .instr (.normRd (addrField h)) rest
      | _ => .instr (.reservedOp h) rest
    else .instr (.reservedOp h) rest

/-- Decoding the wave-shape code held in WAVE_TYPE[31:0] (30_encoding R85). -/
def decodeWave (w : Word) : Instr :=
  match w.toNat with
  | 0 => .waveSquare
  | 1 => .waveSaw
  | 2 => .waveSine
  | 3 => .waveNoise
  | _ => .waveIllegal w

/-- Decoding the words of either port. WAVE_TYPE is one word. -/
def decode : Port → List Word → Decoded
  | .bus, ws => decodeBus ws
  | .waveType, [] => .noTransaction
  | .waveType, w :: rest => .instr (decodeWave w) rest

/-- A header of the four fields (30_encoding R80). -/
def header (op : BitVec 4) (addr : BitVec 24) : Word := op ++ 0#4 ++ addr

/-- The two bus words of a data word D, low word first (log 2). -/
def dataWords (d : Reg64) : List Word := [d.extractLsb' 0 32, d.extractLsb' 32 32]

/-- The words of a REG_WR to CMD with code `code` and ignored bits `hi` (30_encoding R84). -/
def commandWords (hi : BitVec 56) (code : BitVec 8) : List Word :=
  header 2#4 cmdAddr :: dataWords (hi ++ code)

/-- The words of an instruction on its port (30_encoding R80 to R85). -/
def encode : Instr → List Word
  | .regRd addr => [header 1#4 addr]
  | .regWr addr d => header 2#4 addr :: dataWords d
  | .pcmRd addr => [header 3#4 addr]
  | .normRd addr => [header 4#4 addr]
  | .reservedOp h => [h]
  | .cmdNop hi => commandWords hi 0x00#8
  | .cmdStart hi => commandWords hi 0x01#8
  | .cmdReset hi => commandWords hi 0x02#8
  | .cmdReserved hi code => commandWords hi code
  | .waveSquare => [0#32]
  | .waveSaw => [1#32]
  | .waveSine => [2#32]
  | .waveNoise => [3#32]
  | .waveIllegal code => [code]

/-- The three bus words of a number whose bit 0 is the least significant bit of the first word. -/
def tableWords (w : Nat) : List Word :=
  [BitVec.ofNat 32 w, BitVec.ofNat 32 (w / 2 ^ 32), BitVec.ofNat 32 (w / 2 ^ 64)]

/-- Which port a table word is meant for. A WAVE_* row gives a value of WAVE_TYPE and every other row a header, and
the table does not say which of the two a bare number is: the five numbers that the WAVE_* rows print, 0 to 4, are
read as wave codes, every other one as a header (log 4). -/
def tablePort (nbits w : Nat) : Port :=
  if nbits ≤ 32 ∧ w % 2 ^ nbits ≤ 4 then .waveType else .bus

/-- The instruction the decoder reads from an instruction whose bits are `w` (bits from `nbits` up are 0). -/
def decodeTableWord (nbits w : Nat) : Option Instr :=
  match decode (tablePort nbits w) (tableWords (w % 2 ^ nbits)) with
  | .instr i _ => some i
  | .noTransaction => none
  | .missingData => none

end Sys2Proof
end

