-- ==== Sys2Proof/Config.lean ====
section
/-! DEFINITION. What an implementation fixes, and the values the spec leaves free. Every free value is an `opaque`
constant without a body: no proof can see it, so what is proved holds whatever it is. -/

namespace Sys2Proof

/-- The sine function of the vibrato LFO and of the sine oscillator: total, nothing else is known of it
(00_scope R9, 93 I3; log 10). -/
opaque Config.sin : F64 → F64

/-- The raw bits behind call number `n` of the noise source (00_scope R9, 42_oscillator R157; log 11). -/
opaque Config.drawBits : Nat → F64

/-- The sign and payload of the NaN that an operator answers for these operands, as one number
(00_scope R13, 93 I14; log 12). -/
opaque Config.nanChoice : ArithOp → F64 → F64 → Nat

/-- The choice behind MAX_TICKS (00_scope R9, 92 D14; log 9). -/
opaque Config.maxTicksChoice : Nat

/-- The choice behind OUT_DEPTH (00_scope R9, 92 D15; log 9). -/
opaque Config.outDepthChoice : Nat

/-- What a read would give of a PCM byte that nothing has written (93 I12, I13; log 8). -/
opaque Config.unwrittenPcm : Nat → Byte

/-- What a read would give of a NORM entry that nothing has written (93 I12, I13; log 8). -/
opaque Config.unwrittenNorm : Nat → F32

/-- The host library's `exp`, used only by the driver formula of GAIN (47_host_driver R221, R222; log 20). -/
opaque Config.hostExp : F64 → F64

/-- MAX_TICKS: every value from 1 to 2^23 is possible and no other (00_scope R9). -/
def Config.maxTicks : Nat := Config.maxTicksChoice % 2 ^ 23 + 1

/-- OUT_DEPTH: every value from MAX_TICKS to 2^23 is possible and no other (00_scope R9). -/
def Config.outDepth : Nat :=
  Config.outDepthChoice % (2 ^ 23 + 1 - Config.maxTicks) + Config.maxTicks

end Sys2Proof
end

