-- ==== Sys2Proof/Machine/State.lean ====
section
/-! DEFINITION. The state of SFXR-CORE as plain data, its reset, and the reasons a step can stop. -/

namespace Sys2Proof.Machine

/-- STATUS.STATE (10_state R23). -/
inductive RunState where
  | idle | busy | done | fault
deriving DecidableEq, Repr

/-- STATUS.END_REASON; values 4 to 15 never occur (10_state R23). -/
inductive EndReason where
  | none | envEnd | freqCutoff | tickCap
deriving DecidableEq, Repr

/-- STATUS.FAULT_CODE; values 3 to 255 never occur (10_state R23, 60_exceptions R252). -/
inductive FaultCode where
  | none | badWave | numRange
deriving DecidableEq, Repr

/-- The fields of STATUS (10_state R23). Its reserved bits are not stored: they read 0. -/
structure Status where
  state     : RunState
  evt       : Bool
  endReason : EndReason
  faultCode : FaultCode
  errBusy   : Bool
  errCmd    : Bool
  errCfg    : Bool
  errAddr   : Bool
  nanSeen   : Bool
deriving DecidableEq, Repr

/-- STATUS = 0 (10_state R50, 40_host_ops R105). -/
def Status.zero : Status where
  state := .idle
  evt := false
  endReason := .none
  faultCode := .none
  errBusy := false
  errCmd := false
  errCfg := false
  errAddr := false
  nanSeen := false

/-- The fields of CTRL (10_state R24). -/
structure Ctrl where
  irqEn     : Bool
  retrigOsc : Bool
deriving DecidableEq, Repr

/-- The run counters (10_state R26, R33). `tickCount` is T. -/
structure Counters where
  outCount  : Nat
  clipCount : Nat
  tickCount : Nat
  faultTick : Nat
deriving DecidableEq, Repr

/-- Every run counter at 0. -/
def Counters.zero : Counters where
  outCount := 0
  clipCount := 0
  tickCount := 0
  faultTick := 0

/-- The 28 CFG registers (10_state R29); FLAGS is held as its two defined bits (R30). -/
structure Cfg where
  waveType        : BitVec 32
  period          : F64
  periodMax       : F64
  periodMult      : F64
  periodMultSlide : F64
  duty            : F64
  dutySlide       : F64
  arpMult         : F64
  arpTime         : BitVec 32
  cutoffEn        : Bool
  lpfEn           : Bool
  fltw            : F64
  fltwD           : F64
  fltdmp          : F64
  flthp           : F64
  flthpD          : F64
  vibSpeed        : F64
  vibAmp          : F64
  envLen0         : BitVec 32
  envLen1         : BitVec 32
  envLen2         : BitVec 32
  punch           : F64
  flangerOffset   : F64
  flangerSlide    : F64
  repeatTime      : BitVec 32
  gain            : F64
  masterVol       : F64
  sampleRate      : BitVec 32
  sampleSize      : BitVec 32
deriving DecidableEq, Repr

/-- The CFG registers at their reset values (10_state R29, R50): MASTER_VOL is 1.0, SAMPLE_RATE 44100, SAMPLE_SIZE 8
and every other register +0.0 or 0. -/
def Cfg.atReset : Cfg where
  waveType := 0#32
  period := 0#64
  periodMax := 0#64
  periodMult := 0#64
  periodMultSlide := 0#64
  duty := 0#64
  dutySlide := 0#64
  arpMult := 0#64
  arpTime := 0#32
  cutoffEn := false
  lpfEn := false
  fltw := 0#64
  fltwD := 0#64
  fltdmp := 0#64
  flthp := 0#64
  flthpD := 0#64
  vibSpeed := 0#64
  vibAmp := 0#64
  envLen0 := 0#32
  envLen1 := 0#32
  envLen2 := 0#32
  punch := 0#64
  flangerOffset := 0#64
  flangerSlide := 0#64
  repeatTime := 0#32
  gain := 0#64
  masterVol := 0x3FF0000000000000#64
  sampleRate := 44100#32
  sampleSize := 8#32

/-- The seven working registers (10_state R31). -/
structure Work where
  period        : F64
  periodMult    : F64
  duty          : F64
  arpTime       : BitVec 32
  fltw          : F64
  flthp         : F64
  flangerOffset : F64
deriving DecidableEq, Repr

/-- Every working register at +0.0 or 0 (10_state R31, R50). -/
def Work.zero : Work where
  period := 0#64
  periodMult := 0#64
  duty := 0#64
  arpTime := 0#32
  fltw := 0#64
  flthp := 0#64
  flangerOffset := 0#64

/-- The eleven run-state registers (10_state R32). -/
structure RunRegs where
  envStage   : Nat
  envElapsed : Nat
  vibPhase   : F64
  phase      : Nat
  ipp        : Nat
  fltp       : F64
  fltdp      : F64
  fltphp     : F64
  repElapsed : Nat
  sampleSum  : F64
  numSummed  : Nat
deriving DecidableEq, Repr

/-- Every run-state register at +0.0 or 0 (10_state R32, R50). -/
def RunRegs.zero : RunRegs where
  envStage := 0
  envElapsed := 0
  vibPhase := 0#64
  phase := 0
  ipp := 0
  fltp := 0#64
  fltdp := 0#64
  fltphp := 0#64
  repElapsed := 0
  sampleSum := 0#64
  numSummed := 0

/-- The two agents of an execution (00_scope R19). -/
inductive Agent where
  | host | block
deriving DecidableEq, Repr

/-- Everything the spec gives the machine, and what its environment still has to give it. -/
structure State where
  /-- STATUS (10_state R23). -/
  status : Status
  /-- CTRL (10_state R24). -/
  ctrl : Ctrl
  /-- OUT_COUNT, CLIP_COUNT, TICK_COUNT, FAULT_TICK (10_state R26). -/
  count : Counters
  /-- MAX_TICKS_RO (10_state R27). -/
  maxTicks : Nat
  /-- OUT_DEPTH_RO (10_state R27). -/
  outDepth : Nat
  /-- The CFG registers (10_state R29). -/
  cfg : Cfg
  /-- The working registers (10_state R31). -/
  work : Work
  /-- The run-state registers (10_state R32). -/
  run : RunRegs
  /-- The noise table NBUF (10_state R34). -/
  nbuf : Vector F64 32
  /-- The flanger ring FBUF (10_state R35). -/
  fbuf : Vector F64 1024
  /-- The PCM memory: the bytes written so far, addresses strictly rising (10_state R36, 20_memory R60). -/
  pcm : List Host.Cell
  /-- The NORM memory: the entries written so far, indices strictly rising (10_state R36, 20_memory R60). -/
  norm : List (Nat × F32)
  /-- BPS of the current or last accepted START (20_memory R64, log 13). -/
  bps : Nat
  /-- The response word of the last transaction that returned one (30_encoding R80, log 6). -/
  response : Reg64
  /-- The transaction words the host has sent and the block has not answered yet (30_encoding R80, log 2). -/
  bus : List Word
  /-- The environment's choice of who moves next; past its end the block moves while BUSY, the host otherwise
  (20_memory R70, log 3). -/
  turns : List Agent
  /-- How many values Draw has given: the model's own index into the noise source (00_scope R9, log 11). -/
  drawCount : Nat
deriving DecidableEq, Repr

/-- Why a step can stop with a fault. -/
inductive Fault where
  /-- Raised by Emit (46_output R206) when it would store a sample past OUT_DEPTH, an address 20_memory R60 says does
  not exist. No reachable state does it (46_output R203). Safe: the model stops where the hardware would be outside
  its own address space. -/
  | outputAddressAbsent
deriving DecidableEq, Repr

/-- Why a step can be refused. -/
inductive Refusal where
  /-- Raised by exec for an instruction that has no meaning yet; no arm does. Safe. -/
  | notModelled (mnemonic : String)
deriving DecidableEq, Repr

/-- Power-on reset (10_state R50, 70_reset R280). NBUF and FBUF are unspecified there and hold +0.0 here (log 7); PCM
and NORM list nothing (log 8); no transaction has arrived. -/
def State.reset : State where
  status := Status.zero
  ctrl := { irqEn := false, retrigOsc := false }
  count := Counters.zero
  maxTicks := Config.maxTicks
  outDepth := Config.outDepth
  cfg := Cfg.atReset
  work := Work.zero
  run := RunRegs.zero
  nbuf := Vector.replicate 32 0#64
  fbuf := Vector.replicate 1024 0#64
  pcm := []
  norm := []
  bps := 1
  response := 0#64
  bus := []
  turns := []
  drawCount := 0

/-! The named updates: every operation of the machine changes the state through these. -/

def State.setStatus (s : State) (v : Status) : State := { s with status := v }
def State.setCtrl (s : State) (v : Ctrl) : State := { s with ctrl := v }
def State.setCount (s : State) (v : Counters) : State := { s with count := v }
def State.setCfg (s : State) (v : Cfg) : State := { s with cfg := v }
def State.setWork (s : State) (v : Work) : State := { s with work := v }
def State.setRun (s : State) (v : RunRegs) : State := { s with run := v }
def State.setFbuf (s : State) (v : Vector F64 1024) : State := { s with fbuf := v }
def State.setPcm (s : State) (v : List Host.Cell) : State := { s with pcm := v }
def State.setNorm (s : State) (v : List (Nat × F32)) : State := { s with norm := v }
def State.setBps (s : State) (v : Nat) : State := { s with bps := v }
def State.setResponse (s : State) (v : Reg64) : State := { s with response := v }
/-- NBUF and the draw index change together: the table is only ever filled by 32 draws (42_oscillator R157). -/
def State.setNbuf (s : State) (v : Vector F64 32) (n : Nat) : State := { s with nbuf := v, drawCount := n }
/-- The environment's inputs: the words on the bus and the turns to come. -/
def State.setInputs (s : State) (ws : List Word) (ts : List Agent) : State := { s with bus := ws, turns := ts }

end Sys2Proof.Machine
end

