-- ==== Sys2Proof/Machine/Flags.lean ====
section
/-! DEFINITION. STATUS and CTRL as the host sees them: packing, sticky bits, the W1C write, and the IRQ output. -/

namespace Sys2Proof.Machine

/-- The encoding of STATUS.STATE (10_state R23). -/
def RunState.code : RunState → BitVec 2
  | .idle => 0#2
  | .busy => 1#2
  | .done => 2#2
  | .fault => 3#2

/-- The encoding of STATUS.END_REASON (10_state R23). -/
def EndReason.code : EndReason → BitVec 4
  | .none => 0#4
  | .envEnd => 1#4
  | .freqCutoff => 2#4
  | .tickCap => 3#4

/-- The encoding of STATUS.FAULT_CODE (10_state R23, 60_exceptions R252). -/
def FaultCode.code : FaultCode → BitVec 8
  | .none => 0#8
  | .badWave => 1#8
  | .numRange => 2#8

/-- STATUS as a 64-bit word, reserved bits 0, bit 63 first (10_state R23). -/
def Status.toBits (v : Status) : Reg64 :=
  0#43 ++ BitVec.ofBool v.nanSeen ++ BitVec.ofBool v.errAddr ++ BitVec.ofBool v.errCfg ++
    BitVec.ofBool v.errCmd ++ BitVec.ofBool v.errBusy ++ v.faultCode.code ++ v.endReason.code ++
    0#1 ++ BitVec.ofBool v.evt ++ v.state.code

/-- A write to STATUS clears the W1C bits (2 and 16 to 19) whose written bit is 1 and nothing else
(10_state R23, 40_host_ops R101). -/
def Status.writeOneToClear (v : Status) (d : Reg64) : Status :=
  { v with
    evt := v.evt && !d.getLsbD 2
    errBusy := v.errBusy && !d.getLsbD 16
    errCmd := v.errCmd && !d.getLsbD 17
    errCfg := v.errCfg && !d.getLsbD 18
    errAddr := v.errAddr && !d.getLsbD 19 }

/-- CTRL as a 64-bit word (10_state R24). -/
def Ctrl.toBits (v : Ctrl) : Reg64 := 0#62 ++ BitVec.ofBool v.retrigOsc ++ BitVec.ofBool v.irqEn

/-- The fields of CTRL that a write of D stores (10_state R21, R24). -/
def Ctrl.ofBits (d : Reg64) : Ctrl := { irqEn := d.getLsbD 0, retrigOsc := d.getLsbD 1 }

/-- STATUS.STATE = BUSY. -/
def State.busy (s : State) : Bool := decide (s.status.state = .busy)

/-- `sticky(ERR_BUSY)` (00_scope R17). -/
def stickyBusy (s : State) : State := s.setStatus { s.status with errBusy := true }

/-- `sticky(ERR_CMD)` (00_scope R17). -/
def stickyCmd (s : State) : State := s.setStatus { s.status with errCmd := true }

/-- `sticky(ERR_CFG)` (00_scope R17). -/
def stickyCfg (s : State) : State := s.setStatus { s.status with errCfg := true }

/-- `sticky(ERR_ADDR)` (00_scope R17). -/
def stickyAddr (s : State) : State := s.setStatus { s.status with errAddr := true }

/-- The level interrupt output IRQ (60_exceptions R260). -/
def State.irq (s : State) : Bool := s.ctrl.irqEn && s.status.evt

end Sys2Proof.Machine
end

