-- ==== Sys2Proof/Machine/Operands.lean ====
section
/-! DEFINITION. The operands of the register transactions: the register index, the three data formats, and the read and
the store of every register (10_state R20 to R32, 30_encoding R82, R83). -/

namespace Sys2Proof.Machine

/-- The CFG registers (10_state R29). -/
inductive CfgReg where
  | waveType | period | periodMax | periodMult | periodMultSlide | duty | dutySlide | arpMult | arpTime | flags
  | fltw | fltwD | fltdmp | flthp | flthpD | vibSpeed | vibAmp | envLen0 | envLen1 | envLen2 | punch
  | flangerOffset | flangerSlide | repeatTime | gain | masterVol | sampleRate | sampleSize
deriving DecidableEq, Repr

/-- The registers a host can read but not write, each with its own name (10_state R22, R26, R27, R31, R32). -/
inductive RoReg where
  | id | outCount | clipCount | tickCount | faultTick | maxTicks | outDepth
  | wPeriod | wPeriodMult | wDuty | wArpTime | wFltw | wFlthp | wFlangerOffset
  | envStage | envElapsed | vibPhase | phase | ipp | fltp | fltdp | fltphp | repElapsed | sampleSum | numSummed
deriving DecidableEq, Repr

/-- The registers of REG (10_state R20). -/
inductive Reg where
  | cmd | status | ctrl
  | ro (r : RoReg)
  | cfg (r : CfgReg)
deriving DecidableEq, Repr

/-- The register of an index; none for an unmapped one (10_state R20 to R32, 40_host_ops R100). -/
def regOfIndex (i : BitVec 8) : Option Reg :=
  match i.toNat with
  | 0x00 => some (.ro .id)
  | 0x01 => some .cmd
  | 0x02 => some .status
  | 0x03 => some .ctrl
  | 0x04 => some (.ro .outCount)
  | 0x05 => some (.ro .clipCount)
  | 0x06 => some (.ro .tickCount)
  | 0x07 => some (.ro .faultTick)
  | 0x08 => some (.ro .maxTicks)
  | 0x09 => some (.ro .outDepth)
  | 0x10 => some (.cfg .waveType)
  | 0x11 => some (.cfg .period)
  | 0x12 => some (.cfg .periodMax)
  | 0x13 => some (.cfg .periodMult)
  | 0x14 => some (.cfg .periodMultSlide)
  | 0x15 => some (.cfg .duty)
  | 0x16 => some (.cfg .dutySlide)
  | 0x17 => some (.cfg .arpMult)
  | 0x18 => some (.cfg .arpTime)
  | 0x19 => some (.cfg .flags)
  | 0x1A => some (.cfg .fltw)
  | 0x1B => some (.cfg .fltwD)
  | 0x1C => some (.cfg .fltdmp)
  | 0x1D => some (.cfg .flthp)
  | 0x1E => some (.cfg .flthpD)
  | 0x1F => some (.cfg .vibSpeed)
  | 0x20 => some (.cfg .vibAmp)
  | 0x21 => some (.cfg .envLen0)
  | 0x22 => some (.cfg .envLen1)
  | 0x23 => some (.cfg .envLen2)
  | 0x24 => some (.cfg .punch)
  | 0x25 => some (.cfg .flangerOffset)
  | 0x26 => some (.cfg .flangerSlide)
  | 0x27 => some (.cfg .repeatTime)
  | 0x28 => some (.cfg .gain)
  | 0x29 => some (.cfg .masterVol)
  | 0x2A => some (.cfg .sampleRate)
  | 0x2B => some (.cfg .sampleSize)
  | 0x30 => some (.ro .wPeriod)
  | 0x31 => some (.ro .wPeriodMult)
  | 0x32 => some (.ro .wDuty)
  | 0x33 => some (.ro .wArpTime)
  | 0x34 => some (.ro .wFltw)
  | 0x35 => some (.ro .wFlthp)
  | 0x36 => some (.ro .wFlangerOffset)
  | 0x37 => some (.ro .envStage)
  | 0x38 => some (.ro .envElapsed)
  | 0x39 => some (.ro .vibPhase)
  | 0x3A => some (.ro .phase)
  | 0x3B => some (.ro .ipp)
  | 0x3C => some (.ro .fltp)
  | 0x3D => some (.ro .fltdp)
  | 0x3E => some (.ro .fltphp)
  | 0x3F => some (.ro .repElapsed)
  | 0x40 => some (.ro .sampleSum)
  | 0x41 => some (.ro .numSummed)
  | _ => none

/-- The register an ADDR field names: ADDR[23:8] must be 0 (30_encoding R82). -/
def regOfAddr (addr : BitVec 24) : Option Reg :=
  if addr.extractLsb' 8 16 = 0#16 then regOfIndex (addr.extractLsb' 0 8) else none

/-- The `u32` format on a read: bits 63:32 are 0 (10_state R21). -/
def readU32 (v : BitVec 32) : Reg64 := v.setWidth 64

/-- The `u32` format on a write: bits 63:32 are ignored (10_state R21). -/
def storeU32 (d : Reg64) : BitVec 32 := d.setWidth 32

/-- A counter read through a u32 register (10_state R21; R40 says that it fits). -/
def readCount32 (n : Nat) : Reg64 := readU32 (BitVec.ofNat 32 n)

/-- A counter read through a u64 register (10_state R21; R40 says that it fits). -/
def readCount64 (n : Nat) : Reg64 := BitVec.ofNat 64 n

/-- FLAGS as a 64-bit word, reserved bits 0 (10_state R29, R30). -/
def flagsBits (c : Cfg) : Reg64 := 0#62 ++ BitVec.ofBool c.lpfEn ++ BitVec.ofBool c.cutoffEn

/-- The identification value (10_state R22). -/
def idValue : Reg64 := 0x5346585200000007#64

/-- Reading a CFG register in its format (10_state R21, R29). -/
def readCfg (c : Cfg) : CfgReg → Reg64
  | .waveType => readU32 c.waveType
  | .period => c.period
  | .periodMax => c.periodMax
  | .periodMult => c.periodMult
  | .periodMultSlide => c.periodMultSlide
  | .duty => c.duty
  | .dutySlide => c.dutySlide
  | .arpMult => c.arpMult
  | .arpTime => readU32 c.arpTime
  | .flags => flagsBits c
  | .fltw => c.fltw
  | .fltwD => c.fltwD
  | .fltdmp => c.fltdmp
  | .flthp => c.flthp
  | .flthpD => c.flthpD
  | .vibSpeed => c.vibSpeed
  | .vibAmp => c.vibAmp
  | .envLen0 => readU32 c.envLen0
  | .envLen1 => readU32 c.envLen1
  | .envLen2 => readU32 c.envLen2
  | .punch => c.punch
  | .flangerOffset => c.flangerOffset
  | .flangerSlide => c.flangerSlide
  | .repeatTime => readU32 c.repeatTime
  | .gain => c.gain
  | .masterVol => c.masterVol
  | .sampleRate => readU32 c.sampleRate
  | .sampleSize => readU32 c.sampleSize

/-- Storing D into a CFG register in its format (10_state R21, R29; 30_encoding R83). -/
def storeCfg (c : Cfg) (r : CfgReg) (d : Reg64) : Cfg :=
  match r with
  | .waveType => { c with waveType := storeU32 d }
  | .period => { c with period := d }
  | .periodMax => { c with periodMax := d }
  | .periodMult => { c with periodMult := d }
  | .periodMultSlide => { c with periodMultSlide := d }
  | .duty => { c with duty := d }
  | .dutySlide => { c with dutySlide := d }
  | .arpMult => { c with arpMult := d }
  | .arpTime => { c with arpTime := storeU32 d }
  | .flags => { c with cutoffEn := d.getLsbD 0, lpfEn := d.getLsbD 1 }
  | .fltw => { c with fltw := d }
  | .fltwD => { c with fltwD := d }
  | .fltdmp => { c with fltdmp := d }
  | .flthp => { c with flthp := d }
  | .flthpD => { c with flthpD := d }
  | .vibSpeed => { c with vibSpeed := d }
  | .vibAmp => { c with vibAmp := d }
  | .envLen0 => { c with envLen0 := storeU32 d }
  | .envLen1 => { c with envLen1 := storeU32 d }
  | .envLen2 => { c with envLen2 := storeU32 d }
  | .punch => { c with punch := d }
  | .flangerOffset => { c with flangerOffset := d }
  | .flangerSlide => { c with flangerSlide := d }
  | .repeatTime => { c with repeatTime := storeU32 d }
  | .gain => { c with gain := d }
  | .masterVol => { c with masterVol := d }
  | .sampleRate => { c with sampleRate := storeU32 d }
  | .sampleSize => { c with sampleSize := storeU32 d }

/-- Reading a read-only register in its format (10_state R22, R26, R27, R31, R32). -/
def readRo (s : State) : RoReg → Reg64
  | .id => idValue
  | .outCount => readCount32 s.count.outCount
  | .clipCount => readCount32 s.count.clipCount
  | .tickCount => readCount64 s.count.tickCount
  | .faultTick => readCount64 s.count.faultTick
  | .maxTicks => readCount32 s.maxTicks
  | .outDepth => readCount32 s.outDepth
  | .wPeriod => s.work.period
  | .wPeriodMult => s.work.periodMult
  | .wDuty => s.work.duty
  | .wArpTime => readU32 s.work.arpTime
  | .wFltw => s.work.fltw
  | .wFlthp => s.work.flthp
  | .wFlangerOffset => s.work.flangerOffset
  | .envStage => readCount32 s.run.envStage
  | .envElapsed => readCount64 s.run.envElapsed
  | .vibPhase => s.run.vibPhase
  | .phase => readCount32 s.run.phase
  | .ipp => readCount32 s.run.ipp
  | .fltp => s.run.fltp
  | .fltdp => s.run.fltdp
  | .fltphp => s.run.fltphp
  | .repElapsed => readCount32 s.run.repElapsed
  | .sampleSum => s.run.sampleSum
  | .numSummed => readCount32 s.run.numSummed

/-- Reading any register; CMD reads 0 (10_state R25, 40_host_ops R100). -/
def readReg (s : State) : Reg → Reg64
  | .cmd => 0#64
  | .status => s.status.toBits
  | .ctrl => s.ctrl.toBits
  | .ro r => readRo s r
  | .cfg r => readCfg s.cfg r

end Sys2Proof.Machine
end

