-- ==== Sys2Proof/Machine/Float.lean ====
section
/-! DEFINITION. IEEE-754 binary64 arithmetic, comparison and floor, and rounding to binary32 (00_scope R12 to R16,
46_output R205). A finite pattern stands for a whole number of units of 2^-1074; an operation computes the exact result
in those units and rounds once. -/

namespace Sys2Proof.Fp

/-- The 63 bits below the sign (00_scope R12). -/
def mag (x : F64) : Nat := x.toNat % 2 ^ 63

/-- Bit 63: true for a negative pattern (00_scope R12). -/
def sign (x : F64) : Bool := decide (2 ^ 63 ≤ x.toNat)

/-- The magnitude bits of an infinity: exponent 2047, fraction 0. -/
def infMag : Nat := 2047 * 2 ^ 52

/-- Exponent 2047 and a fraction other than 0 (00_scope R12). -/
def isNaN (x : F64) : Bool := decide (infMag < mag x)

/-- Plus or minus infinity. -/
def isInf (x : F64) : Bool := mag x == infMag

/-- `2 ^ n`, with exponents of at most 256 in each power so that Lean's evaluators take it at one go. -/
def pow2 (n : Nat) : Nat := (2 ^ 256) ^ (n / 256) * 2 ^ (n % 256)

/-- The number of units of 2^-1074 in 1.0. -/
def unitsPerOne : Nat := pow2 1074

/-- The number of units of 2^-1074 in 2^-149, the unit of binary32. -/
def unitsPerUnit32 : Nat := pow2 925

/-- The magnitude of a finite pattern, in units of 2^-1074 (00_scope R12). -/
def units (m : Nat) : Nat :=
  if m < 2 ^ 52 then m else (2 ^ 52 + m % 2 ^ 52) * pow2 (m / 2 ^ 52 - 1)

/-- The exact value of a finite pattern, in units of 2^-1074. -/
def value (x : F64) : Int := if sign x then -(units (mag x) : Int) else (units (mag x) : Int)

/-- The pattern with this sign and these magnitude bits. -/
def pack (neg : Bool) (m : Nat) : F64 := BitVec.ofNat 64 (if neg then 2 ^ 63 + m else m)

/-- `num / den` to the nearest integer, ties to the even one (00_scope R13). -/
def roundNearestEven (num den : Nat) : Nat :=
  let q := num / den
  let twice := 2 * (num % den)
  if twice < den then q else if den < twice then q + 1 else q + q % 2

/-- The magnitude bits nearest to `num / den` units, for a format with `p` fraction bits whose infinity has the
magnitude bits `inf`: the result is rounded to `p + 1` significant bits, or to whole units below the normal range,
and overflow gives infinity (00_scope R13). -/
def roundMag (p inf num den : Nat) : Nat :=
  let q := num / den
  let k := if q < 2 ^ (p + 1) then 0 else Nat.log2 q - p
  Nat.min inf (k * 2 ^ p + roundNearestEven num (den * pow2 k))

/-- `num / den` units of 2^-1074 as a binary64 pattern. -/
def round64 (neg : Bool) (num den : Nat) : F64 := pack neg (roundMag 52 infMag num den)

/-- The NaN an operator answers: its sign and payload are free, within the range of NaN patterns (00_scope R13, log 12).
-/
def nanResult (op : ArithOp) (a b : F64) : F64 :=
  let c := Config.nanChoice op a b
  BitVec.ofNat 64 ((c % 2) * 2 ^ 63 + (infMag + 1) + (c / 2) % (2 ^ 52 - 1))

/-- The pattern with the other sign. -/
def neg (x : F64) : F64 := pack (!sign x) (mag x)

/-- The exact sum of two finite patterns, rounded. An exact zero is +0.0 but for (-0.0) + (-0.0). -/
def addFinite (a b : F64) : F64 :=
  let v := value a + value b
  if v = 0 then pack (sign a && sign b) 0 else round64 (decide (v < 0)) v.natAbs 1

/-- Binary64 addition (00_scope R13). -/
def add (a b : F64) : F64 :=
  if isNaN a || isNaN b || (isInf a && isInf b && sign a != sign b) then nanResult .add a b
  else if isInf a then a
  else if isInf b then b
  else addFinite a b

/-- Binary64 subtraction (00_scope R13). -/
def sub (a b : F64) : F64 :=
  if isNaN a || isNaN b || (isInf a && isInf b && sign a == sign b) then nanResult .sub a b
  else if isInf a then a
  else if isInf b then neg b
  else addFinite a (neg b)

/-- Binary64 multiplication (00_scope R13). -/
def mul (a b : F64) : F64 :=
  if isNaN a || isNaN b || (isInf a && mag b == 0) || (mag a == 0 && isInf b) then nanResult .mul a b
  else if isInf a || isInf b then pack (sign a != sign b) infMag
  else round64 (sign a != sign b) (units (mag a) * units (mag b)) unitsPerOne

/-- Binary64 division (00_scope R13). -/
def div (a b : F64) : F64 :=
  if isNaN a || isNaN b || (isInf a && isInf b) || (mag a == 0 && mag b == 0) then nanResult .div a b
  else if isInf a || mag b == 0 then pack (sign a != sign b) infMag
  else if isInf b then pack (sign a != sign b) 0
  else round64 (sign a != sign b) (units (mag a) * unitsPerOne) (units (mag b))

/-- An integer operand of a binary64 operator (00_scope R13). -/
def ofNat (n : Nat) : F64 := round64 false (n * unitsPerOne) 1

/-- The order of the patterns that are not NaN: sign and magnitude, with -0.0 = +0.0 (00_scope R14). -/
def key (x : F64) : Int := if sign x then -(mag x : Int) else (mag x : Int)

/-- `a < b`, false where an operand is NaN (00_scope R14). -/
def lt (a b : F64) : Bool := !isNaN a && !isNaN b && decide (key a < key b)

/-- `a <= b`, false where an operand is NaN (00_scope R14). -/
def le (a b : F64) : Bool := !isNaN a && !isNaN b && decide (key a ≤ key b)

/-- `a == b`, false where an operand is NaN (00_scope R14). -/
def eq (a b : F64) : Bool := !isNaN a && !isNaN b && decide (key a = key b)

/-- `a != b`, true where an operand is NaN (00_scope R14). -/
def ne (a b : F64) : Bool := !eq a b

/-- The extended integers that floor gives (00_scope R15). -/
inductive ExtInt where
  | fin (k : Int) | posInf | negInf | nan
deriving DecidableEq, Repr

/-- The greatest integer not above x; infinities and NaN stay what they are (00_scope R15). -/
def floor (x : F64) : ExtInt :=
  if isNaN x then .nan
  else if isInf x then (if sign x then .negInf else .posInf)
  else .fin (value x / (unitsPerOne : Int))

/-- `to_f32` on a pattern that is not NaN: binary32, nearest with ties to even, overflowing to infinity, in units of
2^-149 (46_output R205). -/
def toF32 (x : F64) : F32 :=
  let m := if isInf x then 255 * 2 ^ 23 else roundMag 23 (255 * 2 ^ 23) (units (mag x)) unitsPerUnit32
  BitVec.ofNat 32 (if sign x then 2 ^ 31 + m else m)

/-- The binary64 value nearest to the decimal `num / den` (00_scope R16, 30_encoding R88). A decimal halfway between two
values gives the even one, a decimal past the largest finite value by half a unit or more gives an infinity, and a zero
result keeps the decimal's sign, so `-0.0` and a negative decimal that rounds to zero give -0.0: R88 says only "nearest",
and all three are the model's choice (DESIGN CHOICE, log 27). -/
def ofRat (neg : Bool) (num den : Nat) : F64 := round64 neg (num * unitsPerOne) den

/-! The literal constants of 00_scope R16. -/

/-- +0.0 -/
def zero : F64 := 0x0000000000000000#64
/-- 0.5 -/
def half : F64 := 0x3FE0000000000000#64
/-- -0.5 -/
def negHalf : F64 := 0xBFE0000000000000#64
/-- 1.0 -/
def one : F64 := 0x3FF0000000000000#64
/-- -1.0 -/
def negOne : F64 := 0xBFF0000000000000#64
/-- 2.0 -/
def two : F64 := 0x4000000000000000#64
/-- 8.0 -/
def eight : F64 := 0x4020000000000000#64
/-- 128.0 -/
def c128 : F64 := 0x4060000000000000#64
/-- 256.0 -/
def c256 : F64 := 0x4070000000000000#64
/-- 32768.0 -/
def c32768 : F64 := 0x40E0000000000000#64
/-- -32768.0 -/
def negC32768 : F64 := 0xC0E0000000000000#64
/-- 0.1 -/
def tenth : F64 := 0x3FB999999999999A#64
/-- 1e-5 -/
def tenMicro : F64 := 0x3EE4F8B588E368F1#64
/-- PI64 -/
def pi64 : F64 := 0x400921FB54442D18#64

end Sys2Proof.Fp
end

