-- ==== Sys2Proof/Machine/Ops.lean ====
section
/-! DEFINITION. The operations the meanings share: the output memories, the noise source, the start and the two ends of a
run (a normal end and the entry into a fault), and the soft reset. -/

namespace Sys2Proof.Machine

/-! ## Memories of written entries (20_memory R60, R62) -/

/-- Addresses strictly rising, each above `lo`: the one form of a memory's contents. No entry equals what an unlisted
address reads as, since that is no value at all (log 8). -/
def cellsAbove {α : Type} (lo : Nat) : List (Nat × α) → Bool
  | [] => true
  | (a, _) :: t => decide (lo ≤ a) && cellsAbove (a + 1) t

/-- The canonical form of a memory. -/
def cellsWf {α : Type} (m : List (Nat × α)) : Bool := cellsAbove 0 m

/-- Every listed address lies below `n`. -/
def cellsBelow {α : Type} (n : Nat) (m : List (Nat × α)) : Bool := m.all fun c => decide (c.1 < n)

/-- What the last write of this address stored, if any has (20_memory R62). -/
def cellRead {α : Type} : List (Nat × α) → Nat → Option α
  | [], _ => none
  | (a, v) :: t, x => if x = a then some v else cellRead t x

/-- `MemWrite`: stores `v` at address `x`, keeping the canonical form (20_memory R62). -/
def cellWrite {α : Type} (x : Nat) (v : α) : List (Nat × α) → List (Nat × α)
  | [] => [(x, v)]
  | (a, w) :: t =>
    if x < a then (x, v) :: (a, w) :: t
    else if x = a then (x, v) :: t
    else (a, w) :: cellWrite x v t

/-- The canonical form of both output memories, within the address spaces of 20_memory R60. -/
def Memory.wf (s : State) : Bool :=
  cellsWf s.pcm && cellsBelow (2 * s.outDepth) s.pcm && cellsWf s.norm && cellsBelow s.outDepth s.norm

/-- `MemRead(PCM, a, 1)`; of a byte nothing has written it gives a free value (20_memory R62, 93 I13, log 8). -/
def readPcm (s : State) (a : Nat) : Byte := (cellRead s.pcm a).getD (Config.unwrittenPcm a)

/-- `MemRead(NORM, i, 4)`; of an entry nothing has written it gives a free value (20_memory R62, 93 I13, log 8). -/
def readNorm (s : State) (i : Nat) : F32 := (cellRead s.norm i).getD (Config.unwrittenNorm i)

/-! ## The noise source (00_scope R9, 42_oscillator R157) -/

/-- The value lies in [-1, 1) (42_oscillator R157). -/
def inNoiseRange (x : F64) : Bool := Fp.le Fp.negOne x && Fp.lt x Fp.one

/-- The value of call number `n` of Draw: a free value in [-1, 1) (42_oscillator R157, log 11). -/
def draw (n : Nat) : F64 :=
  if inNoiseRange (Config.drawBits n) then Config.drawBits n else Fp.zero

/-- The 32 values that the next 32 calls of Draw give, in index order. -/
def drawTable (n : Nat) : Vector F64 32 :=
  ⟨⟨(List.range 32).map fun i => draw (n + i)⟩, by simp⟩

/-- `for i in 0..31: NBUF[i] <- Draw()` (10_state R45, 42_oscillator R150). -/
def refillNoise (s : State) : State := s.setNbuf (drawTable s.drawCount) (s.drawCount + 32)

/-! ## Starting, ending and leaving a run -/

/-- SUMMANDS (10_state R38). -/
def Cfg.summands (c : Cfg) : Nat := 44100 / c.sampleRate.toNat

/-- BPS of a SAMPLE_SIZE (10_state R38). -/
def Cfg.bps (c : Cfg) : Nat := c.sampleSize.toNat / 8

/-- The check START makes (40_host_ops R104). -/
def Cfg.legal (c : Cfg) : Bool :=
  decide (1 ≤ c.sampleRate.toNat) && decide (c.sampleRate.toNat ≤ 44100) &&
    (c.sampleSize == 8#32 || c.sampleSize == 16#32)

/-- The working registers loaded from their CFG registers (10_state R31, R45). -/
def Work.load (c : Cfg) : Work where
  period := c.period
  periodMult := c.periodMult
  duty := c.duty
  arpTime := c.arpTime
  fltw := c.fltw
  flthp := c.flthp
  flangerOffset := c.flangerOffset

/-- FBUF cleared (10_state R35, R45). -/
def clearedFbuf : Vector F64 1024 := Vector.replicate 1024 0#64

/-- InitRun (10_state R45). BPS is taken from SAMPLE_SIZE here (20_memory R64, log 13). -/
def initRun (s : State) : State :=
  (((((refillNoise s).setWork (Work.load s.cfg)).setRun RunRegs.zero).setFbuf clearedFbuf).setCount
    Counters.zero).setBps s.cfg.bps |>.setStatus
    { s.status with
      state := .busy, evt := false, endReason := .none, faultCode := .none, nanSeen := false }

/-- `end(reason)`: the run stops normally, with the writes the ending tick has made (41_sequencer R130). -/
def endRun (reason : EndReason) (s : State) : State :=
  s.setStatus { s.status with endReason := reason, state := .done, evt := true }

/-- `raise Fault(code)`, on the state before the tick: undoing the tick is going back to that state, and only the fault
record is written (60_exceptions R251). -/
def raiseFault (code : FaultCode) (beforeTick : State) : State :=
  (beforeTick.setCount
    { beforeTick.count with
      faultTick := beforeTick.count.tickCount, outCount := 0, clipCount := 0 }).setStatus
    { beforeTick.status with faultCode := code, state := .fault, evt := true }

/-- What an accepted RESET does: STATUS, the counters, the working and the run-state registers at their reset values,
everything else kept. It is also the way back from DONE and FAULT to IDLE (40_host_ops R105, 60_exceptions R256). -/
def softReset (s : State) : State :=
  ((s.setStatus Status.zero).setCount Counters.zero).setWork Work.zero |>.setRun RunRegs.zero

end Sys2Proof.Machine
end

