-- ==== Sys2Proof/Machine/HostOps.lean ====
section
/-! DEFINITION. The meanings of the host transactions and of the commands (40_host_ops R100 to R109). -/

namespace Sys2Proof.Machine

/-! ## Commands (40_host_ops R103 to R106) -/

/-- An accepted START (40_host_ops R104). -/
def startAccepted (s : State) : Bool := !s.busy && s.cfg.legal

/-- Command START (40_host_ops R104). -/
def startCommand (s : State) : State :=
  if s.busy then stickyBusy s else if s.cfg.legal then initRun s else stickyCfg s

/-- Command RESET (40_host_ops R105). -/
def resetCommand (s : State) : State := if s.busy then stickyBusy s else softReset s

/-- Command(c) (40_host_ops R103 to R106). -/
def command (c : BitVec 8) (s : State) : State :=
  match c.toNat with
  | 0 => s
  | 1 => startCommand s
  | 2 => resetCommand s
  | _ => stickyCmd s

/-! ## Register transactions -/

/-- REG_RD: the response is 0 with ERR_ADDR for an unmapped index, the register otherwise (40_host_ops R100). -/
def execRegRd (addr : BitVec 24) (s : State) : Host.Outcome State Fault Refusal :=
  match regOfAddr addr with
  | none => .next ((stickyAddr s).setResponse 0#64)
  | some r => .next (s.setResponse (readReg s r))

/-- A write of CTRL or of a CFG register, refused while BUSY (40_host_ops R101, R102). -/
def guardedWrite (s t : State) : State := if s.busy then stickyBusy s else t

/-- The write of D to a register (40_host_ops R101). -/
def writeReg (r : Reg) (d : Reg64) (s : State) : State :=
  match r with
  | .cmd => command (d.extractLsb' 0 8) s
  | .status => s.setStatus (s.status.writeOneToClear d)
  | .ctrl => guardedWrite s (s.setCtrl (Ctrl.ofBits d))
  | .ro _ => stickyAddr s
  | .cfg r => guardedWrite s (s.setCfg (storeCfg s.cfg r d))

/-- REG_WR (40_host_ops R101). It returns no response word. -/
def execRegWr (addr : BitVec 24) (d : Reg64) (s : State) : Host.Outcome State Fault Refusal :=
  match regOfAddr addr with
  | none => .next (stickyAddr s)
  | some r => .next (writeReg r d s)

/-! ## Output transactions -/

/-- PCM_RD (40_host_ops R107). -/
def execPcmRd (addr : BitVec 24) (s : State) : Host.Outcome State Fault Refusal :=
  if s.count.outCount * s.bps ≤ addr.toNat then .next ((stickyAddr s).setResponse 0#64)
  else .next (s.setResponse ((readPcm s addr.toNat).setWidth 64))

/-- NORM_RD (40_host_ops R108). -/
def execNormRd (addr : BitVec 24) (s : State) : Host.Outcome State Fault Refusal :=
  if s.count.outCount ≤ addr.toNat then .next ((stickyAddr s).setResponse 0#64)
  else .next (s.setResponse ((readNorm s addr.toNat).setWidth 64))

/-- A reserved header: answered with 0 and ERR_ADDR, whatever it holds (40_host_ops R109, 20_memory R64 (e), 30_encoding
R81; log 19). -/
def execReservedOp (_h : Word) (s : State) : Host.Outcome State Fault Refusal :=
  .next ((stickyAddr s).setResponse 0#64)

/-! ## Commands as transactions -/

/-- CMD_NOP (40_host_ops R103). -/
def execCmdNop (_hi : BitVec 56) (s : State) : Host.Outcome State Fault Refusal := .next s

/-- CMD_START (40_host_ops R104). -/
def execCmdStart (_hi : BitVec 56) (s : State) : Host.Outcome State Fault Refusal := .next (startCommand s)

/-- CMD_RESET (40_host_ops R105). -/
def execCmdReset (_hi : BitVec 56) (s : State) : Host.Outcome State Fault Refusal := .next (resetCommand s)

/-- CMD_RESERVED, in every STATE (40_host_ops R106). -/
def execCmdReserved (_hi : BitVec 56) (_code : BitVec 8) (s : State) : Host.Outcome State Fault Refusal :=
  .next (stickyCmd s)

end Sys2Proof.Machine
end

