-- ==== Sys2Proof/Machine/Oscillator.lean ====
section
/-! DEFINITION. The pitch path, the phase accumulator and the waveforms (42_oscillator R140 to R157). -/

namespace Sys2Proof.Machine

/-! ## Pitch path, once per tick -/

/-- FreqSlide (42_oscillator R140). The product is the IEEE-754 one of the pseudocode, so a W_PERIOD of +0.0 becomes -0.0
under a negative W_PERIOD_MULT, and NaN under an infinite or NaN one, where a corner case of R140 says that it stays +0.0
(DEDUCED, log 28). -/
def freqSlide (s : State) : State :=
  let m := Fp.add s.work.periodMult s.cfg.periodMultSlide
  s.setWork { s.work with periodMult := m, period := Fp.mul s.work.period m }

/-- W_PERIOD has passed PERIOD_MAX (42_oscillator R141). -/
def periodPast (s : State) : Bool := Fp.lt s.cfg.periodMax s.work.period

/-- PeriodLimit: the clamp (42_oscillator R141). -/
def periodClamp (s : State) : State :=
  if periodPast s then s.setWork { s.work with period := s.cfg.periodMax } else s

/-- PeriodLimit: STOP (42_oscillator R141). -/
def periodStop (s : State) : Bool := periodPast s && s.cfg.cutoffEn

/-- Vibrato is on (42_oscillator R142). -/
def vibratoOn (s : State) : Bool := Fp.lt Fp.zero s.cfg.vibAmp

/-- Vibrato: the write to VIB_PHASE (42_oscillator R142). -/
def vibratoAdvance (s : State) : State :=
  if vibratoOn s then s.setRun { s.run with vibPhase := Fp.add s.run.vibPhase s.cfg.vibSpeed } else s

/-- Vibrato: RF, of the state after the phase has advanced (42_oscillator R142). -/
def vibratoPeriod (s : State) : F64 :=
  if vibratoOn s then
    Fp.mul s.work.period (Fp.add Fp.one (Fp.mul (Config.sin s.run.vibPhase) s.cfg.vibAmp))
  else s.work.period

/-- IntPeriod: IPER, or none where it raises NUM_RANGE (42_oscillator R143). -/
def intPeriod (rf : F64) : Option Nat :=
  match Fp.floor rf with
  | .nan => none
  | .posInf => none
  | .negInf => some 8
  | .fin k => if 2 ^ 32 - 1 < k then none else if k < 8 then some 8 else some k.toNat

/-- `W < 0: W <- +0.0`, then `W > hi: W <- hi` (42_oscillator R144, 44_filters R180). -/
def clampZeroTo (hi w : F64) : F64 :=
  let w1 := if Fp.lt w Fp.zero then Fp.zero else w
  if Fp.lt hi w1 then hi else w1

/-- DutySlide (42_oscillator R144). -/
def dutySlide (s : State) : State :=
  s.setWork { s.work with duty := clampZeroTo Fp.half (Fp.add s.work.duty s.cfg.dutySlide) }

/-! ## Phase accumulator and waveforms, once per sub-sample -/

/-- The oscillator operation of a tick: what WAVE_TYPE selects (30_encoding R85). -/
inductive Shape where
  | square | saw | sine | noise | illegal
deriving DecidableEq, Repr

/-- PhaseAdvance (42_oscillator R150). -/
def phaseAdvance (sh : Shape) (iper : Nat) (s : State) : State :=
  if s.run.phase + 1 < iper then s.setRun { s.run with phase := s.run.phase + 1 }
  else
    let wrapped := s.setRun { s.run with phase := (s.run.phase + 1) % iper }
    if sh = .noise then refillNoise wrapped else wrapped

/-- FP, the normalised phase (42_oscillator R151). -/
def normalisedPhase (phase iper : Nat) : F64 := Fp.div (Fp.ofNat phase) (Fp.ofNat iper)

/-- Square (42_oscillator R153). -/
def square (fp duty : F64) : F64 := if Fp.lt fp duty then Fp.half else Fp.negHalf

/-- Saw (42_oscillator R154). -/
def saw (fp duty : F64) : F64 :=
  if Fp.lt fp duty then Fp.add Fp.negOne (Fp.div (Fp.mul Fp.two fp) duty)
  else Fp.sub Fp.one (Fp.div (Fp.mul Fp.two (Fp.sub fp duty)) (Fp.sub Fp.one duty))

/-- Sine (42_oscillator R155). -/
def sine (fp : F64) : F64 := Config.sin (Fp.mul (Fp.mul fp Fp.two) Fp.pi64)

/-- The index of the noise table (42_oscillator R156). -/
def noiseIndex (phase iper : Nat) : Nat := phase * 32 / iper

/-- Noise (42_oscillator R156). An index past the table, which PHASE < IPER rules out, reads +0.0 (log 18). -/
def noise (nbuf : Vector F64 32) (phase iper : Nat) : F64 := nbuf.getD (noiseIndex phase iper) Fp.zero

/-- Waveform: X, or none where it raises BAD_WAVE (42_oscillator R151). -/
def waveform (sh : Shape) (iper : Nat) (s : State) : Option F64 :=
  match sh with
  | .square => some (square (normalisedPhase s.run.phase iper) s.work.duty)
  | .saw => some (saw (normalisedPhase s.run.phase iper) s.work.duty)
  | .sine => some (sine (normalisedPhase s.run.phase iper))
  | .noise => some (noise s.nbuf s.run.phase iper)
  | .illegal => none

end Sys2Proof.Machine
end

