-- ==== Sys2Proof/Machine/Envelope.lean ====
section
/-! DEFINITION. The envelope generator (43_envelope R170, R171). -/

namespace Sys2Proof.Machine

/-- `LEN[s]`: the length of a stage, in ticks (43_envelope). Stage 3 is read by no rule; here it has length 0 (log 18).
-/
def Cfg.stageLen (c : Cfg) (stage : Nat) : Nat :=
  match stage with
  | 0 => c.envLen0.toNat
  | 1 => c.envLen1.toNat
  | 2 => c.envLen2.toNat
  | _ => 0

/-- The stage's elapsed count has passed its length (43_envelope R170). -/
def envStageOver (s : State) : Bool :=
  decide (s.cfg.stageLen s.run.envStage < s.run.envElapsed + 1)

/-- EnvAdvance: the writes (43_envelope R170). -/
def envAdvance (s : State) : State :=
  if envStageOver s then s.setRun { s.run with envElapsed := 0, envStage := s.run.envStage + 1 }
  else s.setRun { s.run with envElapsed := s.run.envElapsed + 1 }

/-- EnvAdvance: STOP, of the state before the writes (43_envelope R170). -/
def envStop (s : State) : Bool := envStageOver s && decide (2 < s.run.envStage + 1)

/-- `envf` of a stage (43_envelope R171). -/
def envFraction (len elapsed : Nat) : F64 :=
  if len = 0 then Fp.one else Fp.div (Fp.ofNat elapsed) (Fp.ofNat len)

/-- EnvValue: ENV (43_envelope R171). Only the stages 0, 1 and 2 reach it; a later one reads as the decay (log 18). A
zero-length sustain, and the last tick of another, gives NaN for a PUNCH that is not finite (DEDUCED, log 25). -/
def envValue (s : State) : F64 :=
  let envf := envFraction (s.cfg.stageLen s.run.envStage) s.run.envElapsed
  match s.run.envStage with
  | 0 => envf
  | 1 => Fp.add Fp.one (Fp.mul (Fp.mul (Fp.sub Fp.one envf) Fp.two) s.cfg.punch)
  | _ => Fp.sub Fp.one envf

end Sys2Proof.Machine
end

