-- ==== Sys2Proof/Machine/Filters.lean ====
section
/-! DEFINITION. The low-pass and the high-pass filter and their sweeps (44_filters R180 to R183). -/

namespace Sys2Proof.Machine

/-- LpfSweep (44_filters R180). The product is the IEEE-754 one of the pseudocode. So under a FLTW_D of +0.0 a W_FLTW that
is -0.0 or negative becomes -0.0, which the clamp leaves, and an infinite or NaN one becomes NaN, where a corner case of
R180 says that W_FLTW becomes +0.0 (DEDUCED, log 29). -/
def lpfSweep (s : State) : State :=
  s.setWork { s.work with fltw := clampZeroTo Fp.tenth (Fp.mul s.work.fltw s.cfg.fltwD) }

/-- `W < 1e-5: W <- 1e-5`, then `W > 0.1: W <- 0.1` (44_filters R182). -/
def clampHighpass (w : F64) : F64 :=
  let w1 := if Fp.lt w Fp.tenMicro then Fp.tenMicro else w
  if Fp.lt Fp.tenth w1 then Fp.tenth else w1

/-- HpfSweep (44_filters R182). -/
def hpfSweep (s : State) : State :=
  if Fp.ne s.cfg.flthpD Fp.zero then
    s.setWork { s.work with flthp := clampHighpass (Fp.mul s.work.flthp s.cfg.flthpD) }
  else s

/-- The velocity FLTDP that Lowpass writes (44_filters R181). -/
def lowpassVelocity (x : F64) (s : State) : F64 :=
  if s.cfg.lpfEn then
    let d := Fp.add s.run.fltdp (Fp.mul (Fp.sub x s.run.fltp) s.work.fltw)
    Fp.sub d (Fp.mul d s.cfg.fltdmp)
  else Fp.zero

/-- Lowpass (44_filters R181). -/
def lowpass (x : F64) (s : State) : State :=
  let d := lowpassVelocity x s
  let base := if s.cfg.lpfEn then s.run.fltp else x
  s.setRun { s.run with fltdp := d, fltp := Fp.add base d }

/-- Highpass: FLTPHP, which is also the filtered sub-sample; `pp` is FLTP before the low-pass (44_filters R183). -/
def highpass (pp : F64) (s : State) : State :=
  let h := Fp.add s.run.fltphp (Fp.sub s.run.fltp pp)
  s.setRun { s.run with fltphp := Fp.sub h (Fp.mul h s.work.flthp) }

end Sys2Proof.Machine
end

