-- ==== Sys2Proof/Machine/Flanger.lean ====
section
/-! DEFINITION. The flanger delay line (45_flanger R190, R191). -/

namespace Sys2Proof.Machine

/-- FlangerStep: the write to W_FLANGER_OFFSET (45_flanger R190). -/
def flangerSlide (s : State) : State :=
  s.setWork { s.work with flangerOffset := Fp.add s.work.flangerOffset s.cfg.flangerSlide }

/-- FlangerStep: ISHIFT of the slid offset, or none where it raises NUM_RANGE (45_flanger R190). -/
def flangerShift (offset : F64) : Option Nat :=
  match Fp.floor offset with
  | .nan => none
  | .posInf => some 1023
  | .negInf => some 1023
  | .fin k => some (min k.natAbs 1023)

/-- The ring after the write of `x` at IPP (45_flanger R191). An index past the ring, which IPP <= 1023 rules out, writes
nothing (log 18). -/
def ringWrite (x : F64) (s : State) : Vector F64 1024 := s.fbuf.setIfInBounds s.run.ipp x

/-- The entry the tap reads, of the written ring (45_flanger R191). -/
def ringTap (ring : Vector F64 1024) (ipp ishift : Nat) : F64 :=
  ring.getD ((ipp + 1024 - ishift) % 1024) Fp.zero

/-- FlangerTap: the flanged sub-sample Y (45_flanger R191). -/
def flangerOut (x : F64) (ishift : Nat) (s : State) : F64 :=
  Fp.add x (ringTap (ringWrite x s) s.run.ipp ishift)

/-- FlangerTap: the writes to FBUF and IPP (45_flanger R191). -/
def flangerWrite (x : F64) (s : State) : State :=
  (s.setFbuf (ringWrite x s)).setRun { s.run with ipp := (s.run.ipp + 1) % 1024 }

end Sys2Proof.Machine
end

