-- ==== Sys2Proof/Machine/Output.lean ====
section
/-! DEFINITION. Decimation, scaling, the normalised mirror, quantisation and the store of an output sample
(46_output R201 to R209). -/

namespace Sys2Proof.Machine

/-- Scale: the oversampling mean, master volume, gain (46_output R202). -/
def scale (c : Cfg) (v : F64) : F64 := Fp.mul (Fp.mul (Fp.div v Fp.eight) c.masterVol) c.gain

/-- NormBits (46_output R205). -/
def normBits (v : F64) : F32 := if Fp.isNaN v then 0x7FC00000#32 else Fp.toF32 v

/-- What a quantiser gives: the value, whether it counts as clipped, whether the input was NaN (46_output R207). -/
structure Quantised where
  value   : Int
  clipped : Bool
  nan     : Bool
deriving DecidableEq, Repr

/-- The integer that `floor` gives of a value the clamps have brought into range (46_output R208, R209). -/
def floorInt (t : F64) : Int :=
  match Fp.floor t with
  | .fin k => k
  | .posInf => 0
  | .negInf => 0
  | .nan => 0

/-- A quantiser: `t >= hi` clamps to `top`, `t < lo` to `bottom`, otherwise floor; NaN gives the midpoint
(46_output R207 to R209). -/
def quantise (v t hi lo : F64) (mid top bottom : Int) : Quantised :=
  if Fp.isNaN v then { value := mid, clipped := true, nan := true }
  else if Fp.le hi t then { value := top, clipped := true, nan := false }
  else if Fp.lt t lo then { value := bottom, clipped := true, nan := false }
  else { value := floorInt t, clipped := false, nan := false }

/-- Quant8 (46_output R208). -/
def quant8 (v : F64) : Quantised :=
  quantise v (Fp.mul (Fp.add v Fp.one) Fp.c128) Fp.c256 Fp.zero 128 255 0

/-- Quant16 (46_output R209). -/
def quant16 (v : F64) : Quantised :=
  quantise v (Fp.mul v Fp.c32768) Fp.c32768 Fp.negC32768 0 32767 (-32768)

/-- The quantiser that SAMPLE_SIZE selects (46_output R206). -/
def quantised (c : Cfg) (v : F64) : Quantised := if c.sampleSize = 8#32 then quant8 v else quant16 v

/-- The PCM address of sample `n`: n for 8-bit samples, 2n for 16-bit ones (46_output R206, 20_memory R63). -/
def sampleAddr (c : Cfg) (n : Nat) : Nat := if c.sampleSize = 8#32 then n else 2 * n

/-- How many PCM bytes a sample takes (46_output R206, 10_state R38). -/
def sampleBytes (c : Cfg) : Nat := if c.sampleSize = 8#32 then 1 else 2

/-- PCM after sample `n` was stored: `MemWrite` of one byte, or of the low byte and then the high byte of the
little-endian pair (46_output R206, 20_memory R62, R63). -/
def storedSample (c : Cfg) (n : Nat) (q : Int) (m : List Host.Cell) : List Host.Cell :=
  if c.sampleSize = 8#32 then cellWrite (sampleAddr c n) (BitVec.ofInt 8 q) m
  else
    cellWrite (sampleAddr c n + 1) ((BitVec.ofInt 16 q).extractLsb' 8 8)
      (cellWrite (sampleAddr c n) ((BitVec.ofInt 16 q).extractLsb' 0 8) m)

/-- The store of sample `n` into PCM (46_output R206). -/
def storePcm (n : Nat) (q : Int) (s : State) : State := s.setPcm (storedSample s.cfg n q s.pcm)

/-- The store of entry `n` of the mirror, `MemWrite(NORM, n, 4, w)` (46_output R206, 20_memory R62). -/
def storeNorm (n : Nat) (w : F32) (s : State) : State := s.setNorm (cellWrite n w s.norm)

/-- The counters and NAN_SEEN after a sample was stored (46_output R206 to R209). -/
def countSample (q : Quantised) (s : State) : State :=
  (s.setCount
    { s.count with
      outCount := s.count.outCount + 1
      clipCount := if q.clipped then s.count.clipCount + 1 else s.count.clipCount }).setStatus
    { s.status with nanSeen := s.status.nanSeen || q.nan }

/-- The stores of Emit (46_output R206). -/
def emitStores (v : F64) (s : State) : State :=
  let w := scale s.cfg v
  let q := quantised s.cfg w
  countSample q (storePcm s.count.outCount q.value (storeNorm s.count.outCount (normBits w) s))

/-- Emit (46_output R206); none where the sample's address does not exist (20_memory R60, log 14). -/
def emit (v : F64) (s : State) : Option State :=
  if s.count.outCount < s.outDepth then some (emitStores v s) else none

/-- The sum SAMPLE_SUM takes on (46_output R201). -/
def decimateSum (acc : F64) (s : State) : F64 := Fp.add s.run.sampleSum acc

/-- Decimate (46_output R201). -/
def decimate (acc : F64) (s : State) : Option State :=
  if s.cfg.summands ≤ s.run.numSummed + 1 then
    emit (Fp.div (decimateSum acc s) (Fp.ofNat s.cfg.summands))
      (s.setRun { s.run with numSummed := 0, sampleSum := Fp.zero })
  else some (s.setRun { s.run with numSummed := s.run.numSummed + 1, sampleSum := decimateSum acc s })

end Sys2Proof.Machine
end

