-- ==== Sys2Proof/Machine/Sequencer.lean ====
section
/-! DEFINITION. The retrigger and the arpeggio: steps 2 and 3 of a tick (41_sequencer R122, R123). -/

namespace Sys2Proof.Machine

/-- The working registers a retrigger reloads: the oscillator group, and with RETRIG_OSC = 0 all of them
(41_sequencer R123, 10_state R31). -/
def Work.reload (w : Work) (c : Cfg) (oscOnly : Bool) : Work :=
  { period := c.period
    periodMult := c.periodMult
    duty := c.duty
    arpTime := c.arpTime
    fltw := if oscOnly then w.fltw else c.fltw
    flthp := if oscOnly then w.flthp else c.flthp
    flangerOffset := if oscOnly then w.flangerOffset else c.flangerOffset }

/-- Retrigger (41_sequencer R123). -/
def retrigger (s : State) : State :=
  if s.cfg.repeatTime.toNat = 0 then s
  else if s.cfg.repeatTime.toNat ≤ s.run.repElapsed + 1 then
    (s.setWork (s.work.reload s.cfg s.ctrl.retrigOsc)).setRun { s.run with repElapsed := 0 }
  else s.setRun { s.run with repElapsed := s.run.repElapsed + 1 }

/-- Arpeggio (41_sequencer R122). -/
def arpeggio (s : State) : State :=
  if s.work.arpTime.toNat ≠ 0 ∧ s.work.arpTime.toNat ≤ s.count.tickCount then
    s.setWork { s.work with arpTime := 0#32, period := Fp.mul s.work.period s.cfg.arpMult }
  else s

end Sys2Proof.Machine
end

