-- ==== Sys2Proof/Machine/Tick.lean ====
section
/-! DEFINITION. Tick(): the block's step (41_sequencer R120, 30_encoding R90). -/

namespace Sys2Proof.Machine

/-- Steps 2 to 5: retrigger, arpeggio, frequency slide, period limit (41_sequencer R120). `pitched` is the state the
limit is tested on. -/
def pitched (s : State) : State := freqSlide (arpeggio (retrigger s))

/-- Steps 2 to 6: the state after Vibrato's write. -/
def modulated (s : State) : State := vibratoAdvance (periodClamp (pitched s))

/-- What steps 2 to 12 of a tick come to. -/
inductive Front where
  /-- They ran; IPER, ENV and ISHIFT are the tick-local values of 10_state R37. -/
  | go (s : State) (iper : Nat) (env : F64) (ishift : Nat)
  /-- They ended the run. -/
  | ended (reason : EndReason) (s : State)
  /-- They raised a fault. -/
  | raised (code : FaultCode)
deriving DecidableEq, Repr

/-- Steps 10 to 12, on the state after EnvAdvance: envelope value, flanger step, high-pass sweep. -/
def frontTail (iper : Nat) (s : State) : Front :=
  match flangerShift (flangerSlide s).work.flangerOffset with
  | none => .raised .numRange
  | some ishift => .go (hpfSweep (flangerSlide s)) iper (envValue s) ishift

/-- Steps 2 to 12 (41_sequencer R120): the part of a tick that runs once. -/
def front (s : State) : Front :=
  if periodStop (pitched s) then .ended .freqCutoff (periodClamp (pitched s))
  else
    match intPeriod (vibratoPeriod (modulated s)) with
    | none => .raised .numRange
    | some iper =>
      let slid := dutySlide (modulated s)
      if envStop slid then .ended .envEnd (envAdvance slid) else frontTail iper (envAdvance slid)

/-- The filters of one sub-sample: low-pass sweep, low-pass, high-pass (44_filters R180, R181, R183). -/
def filtered (x : F64) (s : State) : State := highpass s.run.fltp (lowpass x (lpfSweep s))

/-- One sub-sample (41_sequencer R120, step 13): the state and ACC after it, or none where it raises BAD_WAVE. -/
def subSample (sh : Shape) (iper : Nat) (env : F64) (ishift : Nat) (p : State × F64) : Option (State × F64) :=
  match waveform sh iper (phaseAdvance sh iper p.1) with
  | none => none
  | some x =>
    let f := filtered x (phaseAdvance sh iper p.1)
    some (flangerWrite f.run.fltphp f,
      Fp.add p.2 (Fp.mul (flangerOut f.run.fltphp ishift f) env))

/-- `n` sub-samples, in order (41_sequencer R120, 46_output R200). -/
def subSamples (sh : Shape) (iper : Nat) (env : F64) (ishift : Nat) : Nat → State × F64 → Option (State × F64)
  | 0, p => some p
  | n + 1, p =>
    match subSample sh iper env ishift p with
    | none => none
    | some p' => subSamples sh iper env ishift n p'

/-- `T <- T + 1` (41_sequencer R120). -/
def countTick (s : State) : State := s.setCount { s.count with tickCount := s.count.tickCount + 1 }

/-- Steps 13 to 16: the eight sub-samples, the decimation and the tick count; `before` is the state a fault goes back
to (41_sequencer R120, 60_exceptions R251). -/
def tickBack (sh : Shape) (before s : State) (iper : Nat) (env : F64) (ishift : Nat) :
    Host.Outcome State Fault Refusal :=
  match subSamples sh iper env ishift 8 (s, Fp.zero) with
  | none => .next (raiseFault .badWave before)
  | some (s', acc) =>
    match decimate acc s' with
    | none => .fault .outputAddressAbsent
    | some t => .next (countTick t)

/-- Tick() with the oscillator operation `sh` (41_sequencer R120). It is enabled only while BUSY; otherwise the block
takes no step and the state persists (60_exceptions R275, log 16). -/
def tick (sh : Shape) (s : State) : Host.Outcome State Fault Refusal :=
  if s.status.state = .busy then
    if s.maxTicks ≤ s.count.tickCount then .next (endRun .tickCap s)
    else
      match front s with
      | .ended reason t => .next (endRun reason t)
      | .raised code => .next (raiseFault code s)
      | .go t iper env ishift => tickBack sh s t iper env ishift
  else .next s

end Sys2Proof.Machine
end

