-- ==== Sys2Proof/Machine/WaveOps.lean ====
section
/-! DEFINITION. The meanings of the wave-shape codes: one tick of the block with the oscillator operation the code
selects (42_oscillator R151, R153 to R156; log 1). -/

namespace Sys2Proof.Machine

/-- WAVE_SQUARE: a tick whose waveform is Square (42_oscillator R153). -/
def execWaveSquare (s : State) : Host.Outcome State Fault Refusal := tick .square s

/-- WAVE_SAW: a tick whose waveform is Saw (42_oscillator R154). -/
def execWaveSaw (s : State) : Host.Outcome State Fault Refusal := tick .saw s

/-- WAVE_SINE: a tick whose waveform is Sine (42_oscillator R155). -/
def execWaveSine (s : State) : Host.Outcome State Fault Refusal := tick .sine s

/-- WAVE_NOISE: a tick whose waveform is Noise (42_oscillator R156). -/
def execWaveNoise (s : State) : Host.Outcome State Fault Refusal := tick .noise s

/-- WAVE_ILLEGAL: a tick that raises BAD_WAVE at its first sub-sample, if it comes to one (42_oscillator R151). -/
def execWaveIllegal (_code : Word) (s : State) : Host.Outcome State Fault Refusal := tick .illegal s

end Sys2Proof.Machine
end

