-- ==== Sys2Proof/Machine/Dispatch.lean ====
section
/-! DEFINITION. exec: one arm per constructor of Instr. -/

namespace Sys2Proof.Machine

def exec (i : Instr) (s : State) : Host.Outcome State Fault Refusal :=
  match i with
  | .regRd addr => Sys2Proof.Machine.execRegRd addr s
  | .regWr addr d => Sys2Proof.Machine.execRegWr addr d s
  | .pcmRd addr => Sys2Proof.Machine.execPcmRd addr s
  | .normRd addr => Sys2Proof.Machine.execNormRd addr s
  | .reservedOp h => Sys2Proof.Machine.execReservedOp h s
  | .cmdNop hi => Sys2Proof.Machine.execCmdNop hi s
  | .cmdStart hi => Sys2Proof.Machine.execCmdStart hi s
  | .cmdReset hi => Sys2Proof.Machine.execCmdReset hi s
  | .cmdReserved hi code => Sys2Proof.Machine.execCmdReserved hi code s
  | .waveSquare => Sys2Proof.Machine.execWaveSquare s
  | .waveSaw => Sys2Proof.Machine.execWaveSaw s
  | .waveSine => Sys2Proof.Machine.execWaveSine s
  | .waveNoise => Sys2Proof.Machine.execWaveNoise s
  | .waveIllegal code => Sys2Proof.Machine.execWaveIllegal code s

end Sys2Proof.Machine
end

