-- ==== Sys2Proof/Machine/Fetch.lean ====
section
/-! DEFINITION. Which agent moves next, and the instruction it fetches (20_memory R70, 41_sequencer R120). -/

namespace Sys2Proof.Machine

/-- The agent that moves next: the environment's choice, and past its end the block while BUSY, the host otherwise
(20_memory R70, log 3). -/
def nextAgent (s : State) : Agent :=
  match s.turns with
  | a :: _ => a
  | [] => if s.status.state = .busy then .block else .host

/-- The instruction an agent fetches and the words that stay on the bus: the host's next whole transaction, if it has
sent one, or the wave-shape code in WAVE_TYPE (40_host_ops R109, 42_oscillator R151, log 1, log 17). -/
def fetch (a : Agent) (s : State) : Option (Instr × List Word) :=
  match a with
  | .host =>
    match decode .bus s.bus with
    | .instr i rest => some (i, rest)
    | .noTransaction => none
    | .missingData => none
  | .block => some (decodeWave s.cfg.waveType, s.bus)

/-- The state an instruction runs on: the turn is taken and the instruction's words are gone from the bus. -/
def advanced (s : State) (rest : List Word) : State := s.setInputs rest s.turns.tail

/-- The words of one transaction, of the three words of a table number (30_encoding R86). -/
def placedWords (ws : List Word) : List Word :=
  match ws with
  | [] => []
  | h :: _ => ws.take (transactionWords h)

/-- The state in which the block's next tick runs the wave code `w`: WAVE_TYPE holds it, a run is in progress, and the
turn is the block's (log 5). -/
def placeWave (s : State) (w : Word) : State :=
  ((s.setCfg { s.cfg with waveType := w }).setStatus { s.status with state := .busy }).setInputs
    s.bus (.block :: s.turns)

/-- The state in which the host's next transaction is made of the words `ws` (log 5). -/
def placeTransaction (s : State) (ws : List Word) : State :=
  s.setInputs (placedWords ws ++ s.bus) (.host :: s.turns)

end Sys2Proof.Machine
end

