-- ==== Sys2Proof/Machine/Step.lean ====
section
/-! DEFINITION. One step of the machine: the agent whose turn it is fetches an instruction and runs it. -/

namespace Sys2Proof.Machine

/-- One step (20_memory R70): one host transaction or one block tick. An agent with nothing to fetch only gives up its
turn (log 17). -/
def step (s : State) : Host.Outcome State Fault Refusal :=
  match fetch (nextAgent s) s with
  | some (i, rest) => exec i (advanced s rest)
  | none => .next (advanced s s.bus)

/-- The state with the instruction of a table row placed where the next step fetches it (log 4, log 5). -/
def State.withFetchWord (s : State) (nbits w : Nat) : State :=
  match tablePort nbits w with
  | .bus => placeTransaction s (tableWords (w % 2 ^ nbits))
  | .waveType => placeWave s (BitVec.ofNat 32 (w % 2 ^ nbits))

end Sys2Proof.Machine
end

