-- ==== Sys2Proof/Machine/Assembler.lean ====
section
/-! DEFINITION. The lines of the assembler (30_encoding R88), as their parts and the transaction each stands for. -/

namespace Sys2Proof.Machine

/-- The index of a read-only register (10_state R22, R26, R27, R31, R32). -/
def indexOfRo : RoReg → BitVec 8
  | .id => 0x00#8
  | .outCount => 0x04#8
  | .clipCount => 0x05#8
  | .tickCount => 0x06#8
  | .faultTick => 0x07#8
  | .maxTicks => 0x08#8
  | .outDepth => 0x09#8
  | .wPeriod => 0x30#8
  | .wPeriodMult => 0x31#8
  | .wDuty => 0x32#8
  | .wArpTime => 0x33#8
  | .wFltw => 0x34#8
  | .wFlthp => 0x35#8
  | .wFlangerOffset => 0x36#8
  | .envStage => 0x37#8
  | .envElapsed => 0x38#8
  | .vibPhase => 0x39#8
  | .phase => 0x3A#8
  | .ipp => 0x3B#8
  | .fltp => 0x3C#8
  | .fltdp => 0x3D#8
  | .fltphp => 0x3E#8
  | .repElapsed => 0x3F#8
  | .sampleSum => 0x40#8
  | .numSummed => 0x41#8

/-- The index of a CFG register (10_state R29). -/
def indexOfCfg : CfgReg → BitVec 8
  | .waveType => 0x10#8
  | .period => 0x11#8
  | .periodMax => 0x12#8
  | .periodMult => 0x13#8
  | .periodMultSlide => 0x14#8
  | .duty => 0x15#8
  | .dutySlide => 0x16#8
  | .arpMult => 0x17#8
  | .arpTime => 0x18#8
  | .flags => 0x19#8
  | .fltw => 0x1A#8
  | .fltwD => 0x1B#8
  | .fltdmp => 0x1C#8
  | .flthp => 0x1D#8
  | .flthpD => 0x1E#8
  | .vibSpeed => 0x1F#8
  | .vibAmp => 0x20#8
  | .envLen0 => 0x21#8
  | .envLen1 => 0x22#8
  | .envLen2 => 0x23#8
  | .punch => 0x24#8
  | .flangerOffset => 0x25#8
  | .flangerSlide => 0x26#8
  | .repeatTime => 0x27#8
  | .gain => 0x28#8
  | .masterVol => 0x29#8
  | .sampleRate => 0x2A#8
  | .sampleSize => 0x2B#8

/-- The index of a register (10_state R22 to R32). -/
def indexOfReg : Reg → BitVec 8
  | .cmd => 0x01#8
  | .status => 0x02#8
  | .ctrl => 0x03#8
  | .ro r => indexOfRo r
  | .cfg r => indexOfCfg r

/-- The ADDR field that names a register (30_encoding R82). -/
def addrOfReg (r : Reg) : BitVec 24 := (indexOfReg r).setWidth 24

/-- `<reg>`: a register's name or an index (30_encoding R88). -/
inductive AsmReg where
  | name (r : Reg)
  | index (i : BitVec 8)
deriving DecidableEq, Repr

/-- `<value>`: `f64:<decimal>` as a signed fraction, `u:<integer>`, or a raw pattern (30_encoding R88). -/
inductive AsmValue where
  | f64 (negative : Bool) (num den : Nat)
  | u (n : Nat)
  | raw (bits : Reg64)
deriving DecidableEq, Repr

/-- The command names of `CMD <name>` (30_encoding R84, R88). -/
inductive CmdName where
  | nop | start | reset
deriving DecidableEq, Repr

/-- One line of the assembler (30_encoding R88). -/
inductive AsmLine where
  | regRd (r : AsmReg)
  | regWr (r : AsmReg) (v : AsmValue)
  | pcmRd (addr : BitVec 24)
  | normRd (index : BitVec 24)
  | cmd (c : CmdName)
deriving DecidableEq, Repr

/-- The ADDR field of a `<reg>`. -/
def AsmReg.addr : AsmReg → BitVec 24
  | .name r => addrOfReg r
  | .index i => i.setWidth 24

/-- The data word of a `<value>`; a decimal is rounded to the nearest binary64 value (30_encoding R88). R88 leaves three
points open, and these are the model's own: a `u:<integer>` of 2^64 or more keeps its low 64 bits (DESIGN CHOICE, log 26),
and an `f64:<decimal>` halfway between two values goes to the even one and one past the largest finite value to an infinity
(DESIGN CHOICE, log 27). -/
def AsmValue.bits : AsmValue → Reg64
  | .f64 negative num den => Fp.ofRat negative num den
  | .u n => BitVec.ofNat 64 n
  | .raw bits => bits

/-- The code of a command name (30_encoding R84). -/
def CmdName.code : CmdName → Nat
  | .nop => 0
  | .start => 1
  | .reset => 2

/-- The transaction a line stands for; a write to CMD is the command (30_encoding R84, R88). -/
def assemble : AsmLine → Instr
  | .regRd r => .regRd r.addr
  | .regWr r v => decodeRegWr r.addr v.bits
  | .pcmRd addr => .pcmRd addr
  | .normRd index => .normRd index
  | .cmd c => decodeRegWr cmdAddr (AsmValue.u c.code).bits

end Sys2Proof.Machine
end

