-- ==== Sys2Proof/Machine/Driver.lean ====
section
/-! DEFINITION. The host driver's parameter formulas and pseudo-instructions (47_host_driver R220 to R226). No rule of
the block depends on this file (log 20). -/

namespace Sys2Proof.Machine

/-- A RawParameterSet with the output settings held beside it, in sfxr order (47_host_driver R220); the output format has
the defaults of R222. -/
structure RawParams where
  waveType     : BitVec 32
  envAttack    : F64
  envSustain   : F64
  envPunch     : F64
  envDecay     : F64
  baseFreq     : F64
  freqLimit    : F64
  freqRamp     : F64
  freqDramp    : F64
  vibStrength  : F64
  vibSpeed     : F64
  arpMod       : F64
  arpSpeed     : F64
  duty         : F64
  dutyRamp     : F64
  repeatSpeed  : F64
  phaOffset    : F64
  phaRamp      : F64
  lpfFreq      : F64
  lpfRamp      : F64
  lpfResonance : F64
  hpfFreq      : F64
  hpfRamp      : F64
  soundVol     : F64
  sampleRate   : BitVec 32 := 44100#32
  sampleSize   : BitVec 32 := 8#32
deriving DecidableEq, Repr

/-- `x^2`, which is `x * x` (47_host_driver R221). -/
def hostSquare (x : F64) : F64 := Fp.mul x x

/-- `x^3`, which is `(x * x) * x` (47_host_driver R221). -/
def hostCube (x : F64) : F64 := Fp.mul (Fp.mul x x) x

/-- A decimal literal of a formula. -/
def decimal (num den : Nat) : F64 := Fp.ofRat false num den

/-- `floor(x)` written to a u32 register (47_host_driver R221, R222). For an x out of the register's range, which no field
in range gives, the rule states no value: the register takes the low 32 bits of the floor, and 0 for an infinity or a NaN
(DESIGN CHOICE, log 20). -/
def floorU32 (x : F64) : BitVec 32 := BitVec.ofInt 32 (floorInt x)

/-- `x`, negated if the parameter is negative (47_host_driver R222). -/
def withSignOf (p x : F64) : F64 := if Fp.lt p Fp.zero then Fp.neg x else x

/-- `floor(((1.0 - p)^2) * 20000.0 + 32.0)` (47_host_driver R221, R222). -/
def speedTicks (p : F64) : BitVec 32 :=
  floorU32 (Fp.add (Fp.mul (hostSquare (Fp.sub Fp.one p)) (decimal 20000 1)) (decimal 32 1))

/-- `100.0 / ((p^2) + 0.001)` (47_host_driver R221). -/
def periodOf (p : F64) : F64 := Fp.div (decimal 100 1) (Fp.add (hostSquare p) (decimal 1 1000))

/-- ARP_MULT (47_host_driver R221). -/
def arpMultOf (p : F64) : F64 :=
  if Fp.le Fp.zero p then Fp.sub Fp.one (Fp.mul (hostSquare p) (decimal 9 10))
  else Fp.add Fp.one (Fp.mul (hostSquare p) (decimal 10 1))

/-- FLTDMP, with `min(0.8, x)` (47_host_driver R222). -/
def fltdmpOf (resonance fltw : F64) : F64 :=
  let x := Fp.mul
    (Fp.div (decimal 5 1) (Fp.add Fp.one (Fp.mul (hostSquare resonance) (decimal 20 1))))
    (Fp.add (decimal 1 100) fltw)
  if Fp.lt x (decimal 8 10) then x else decimal 8 10

/-- The CFG registers a RawParameterSet stands for (47_host_driver R221, R222). -/
def rawCfg (p : RawParams) : Cfg :=
  let fltw := Fp.mul (hostCube p.lpfFreq) Fp.tenth
  { waveType := p.waveType
    period := periodOf p.baseFreq
    periodMax := periodOf p.freqLimit
    periodMult := Fp.sub Fp.one (Fp.mul (hostCube p.freqRamp) (decimal 1 100))
    periodMultSlide := Fp.neg (Fp.mul (hostCube p.freqDramp) (decimal 1 1000000))
    duty := Fp.sub Fp.half (Fp.mul p.duty Fp.half)
    dutySlide := Fp.neg (Fp.mul p.dutyRamp (decimal 5 100000))
    arpMult := arpMultOf p.arpMod
    arpTime := if Fp.eq p.arpSpeed Fp.one then 0#32 else speedTicks p.arpSpeed
    cutoffEn := Fp.lt Fp.zero p.freqLimit
    lpfEn := Fp.ne p.lpfFreq Fp.one
    fltw := fltw
    fltwD := Fp.add Fp.one (Fp.mul p.lpfRamp (decimal 1 10000))
    fltdmp := fltdmpOf p.lpfResonance fltw
    flthp := Fp.mul (hostSquare p.hpfFreq) Fp.tenth
    flthpD :=
      if Fp.ne p.hpfRamp Fp.zero then Fp.add Fp.one (Fp.mul p.hpfRamp (decimal 3 10000)) else Fp.zero
    vibSpeed := Fp.mul (hostSquare p.vibSpeed) (decimal 1 100)
    vibAmp := Fp.mul p.vibStrength Fp.half
    envLen0 := floorU32 (Fp.mul (hostSquare p.envAttack) (decimal 100000 1))
    envLen1 := floorU32 (Fp.mul (hostSquare p.envSustain) (decimal 100000 1))
    envLen2 := floorU32 (Fp.mul (hostSquare p.envDecay) (decimal 100000 1))
    punch := p.envPunch
    flangerOffset := withSignOf p.phaOffset (Fp.mul (hostSquare p.phaOffset) (decimal 1020 1))
    flangerSlide := withSignOf p.phaRamp (hostSquare p.phaRamp)
    repeatTime := if Fp.eq p.repeatSpeed Fp.zero then 0#32 else speedTicks p.repeatSpeed
    gain := Fp.sub (Config.hostExp p.soundVol) Fp.one
    masterVol := Fp.one
    sampleRate := p.sampleRate
    sampleSize := p.sampleSize }

/-- The CFG registers in index order (10_state R29). -/
def cfgRegs : List CfgReg :=
  [.waveType, .period, .periodMax, .periodMult, .periodMultSlide, .duty, .dutySlide, .arpMult, .arpTime, .flags,
   .fltw, .fltwD, .fltdmp, .flthp, .flthpD, .vibSpeed, .vibAmp, .envLen0, .envLen1, .envLen2, .punch,
   .flangerOffset, .flangerSlide, .repeatTime, .gain, .masterVol, .sampleRate, .sampleSize]

/-- The 28 register writes that load a whole configuration, in index order (47_host_driver R223). -/
def loadCfg (c : Cfg) : List Instr :=
  cfgRegs.map fun r => .regWr (addrOfReg (.cfg r)) (readCfg c r)

/-- `LOAD_RAW <p>` (47_host_driver R223). -/
def loadRaw (p : RawParams) : List Instr := loadCfg (rawCfg p)

/-- The transactions of a `GENERATE` that takes `polls` readings of STATUS (47_host_driver R224). -/
def generate (polls : Nat) : List Instr :=
  .cmdStart 0#56 :: List.replicate polls (.regRd (addrOfReg .status))

/-- GENERATE's loop ends on this reading of STATUS: `s[1:0]` is not BUSY (47_host_driver R224). -/
def pollDone (status : Reg64) : Bool := status.extractLsb' 0 2 != RunState.busy.code

/-- `n` ticks of the block, one after another; none where one of them stops. -/
def blockTicks : Nat → State → Option State
  | 0, s => some s
  | n + 1, s =>
    match exec (decodeWave s.cfg.waveType) s with
    | .next t => blockTicks n t
    | .fault _ => none
    | .refused _ => none

/-- The transactions of a list, one after another; none where one of them stops. -/
def execAll : List Instr → State → Option State
  | [], s => some s
  | i :: is, s =>
    match exec i s with
    | .next t => execAll is t
    | .fault _ => none
    | .refused _ => none

/-- GENERATE's loop (47_host_driver R224): REG_RD STATUS, again while the reading says BUSY. Each number of the list is how
many ticks the block takes before one reading, which the interleaving leaves free (20_memory R70); the answer is the
state after the reading that ends the loop, none where the list ends first. -/
def pollLoop : List Nat → State → Option State
  | [], _ => none
  | n :: gaps, s =>
    match blockTicks n s with
    | none => none
    | some t =>
      match exec (.regRd (addrOfReg .status)) t with
      | .next u => if pollDone u.response then some u else pollLoop gaps u
      | .fault _ => none
      | .refused _ => none

/-- `GENERATE`: START, then the loop (47_host_driver R224). -/
def runGenerate (gaps : List Nat) (s : State) : Option State :=
  match exec (.cmdStart 0#56) s with
  | .next t => pollLoop gaps t
  | .fault _ => none
  | .refused _ => none

/-- END_REASON of the reading that ended GENERATE, `s[7:4]` (47_host_driver R224). -/
def polledEndReason (status : Reg64) : BitVec 4 := status.extractLsb' 4 4

/-- FAULT_CODE of the reading that ended GENERATE, `s[15:8]` (47_host_driver R224). -/
def polledFaultCode (status : Reg64) : BitVec 8 := status.extractLsb' 8 8

/-- The transactions of `READ_OUT <n>` for `bps` bytes per sample (47_host_driver R225). -/
def readOut (n bps : Nat) : List Instr :=
  (List.range (n * bps)).map (fun a => .pcmRd (BitVec.ofNat 24 a)) ++
    (List.range n).map (fun i => .normRd (BitVec.ofNat 24 i))

/-- A 16-bit sample of the two bytes READ_OUT reads, `{hi, lo}` in two's complement (47_host_driver R225, 20_memory R63). -/
def combine16 (hi lo : Byte) : Int := (hi ++ lo).toInt

/-- The responses to a list of reads, in order, and the state after them; none where one of them stops. -/
def gather : List Instr → State → Option (List Reg64 × State)
  | [], s => some ([], s)
  | i :: is, s =>
    match exec i s with
    | .next t => (gather is t).map fun p => (t.response :: p.1, p.2)
    | .fault _ => none
    | .refused _ => none

/-- What the host holds after READ_OUT: the PCM buffer and the normalised mirror (47_host_driver R225, its effect). -/
structure HeldOutput where
  /-- The samples: 0 to 255 for 8-bit output, -32768 to 32767 for 16-bit output. -/
  pcm  : List Int
  /-- The binary32 patterns of the mirror. -/
  norm : List F32
deriving DecidableEq, Repr

/-- Pairs of PCM bytes, the low byte first, as 16-bit samples (47_host_driver R225, 20_memory R63). -/
def pairSamples : List Byte → List Int
  | lo :: hi :: rest => combine16 hi lo :: pairSamples rest
  | _ => []

/-- PCM bytes in address order as samples of `bps` bytes (47_host_driver R225). -/
def samplesOf (bps : Nat) (bytes : List Byte) : List Int :=
  if bps = 2 then pairSamples bytes else bytes.map fun b => (b.toNat : Int)

/-- What the responses to `readOut n bps` make up: a byte of each of the first `n * bps`, a NORM entry of each of the
others (40_host_ops R107, R108; 47_host_driver R225). -/
def heldOutput (n bps : Nat) (responses : List Reg64) : HeldOutput where
  pcm := samplesOf bps ((responses.take (n * bps)).map (·.setWidth 8))
  norm := (responses.drop (n * bps)).map (·.setWidth 32)

/-- `READ_OUT <n>`, run: what the host then holds, and the state after the reads (47_host_driver R225). -/
def runReadOut (n bps : Nat) (s : State) : Option (HeldOutput × State) :=
  (gather (readOut n bps) s).map fun p => (heldOutput n bps p.1, p.2)

/-- `CLEAR_ERR` (47_host_driver R226). -/
def clearErr : Instr := .regWr (addrOfReg .status) 0x00000000000F0004#64

end Sys2Proof.Machine
end

