-- ==== Sys2Proof/Safety.lean ====
section
/-! DEFINITION. What counts as a sound state, and when a tick reaches its sub-samples: the terms the statements use. -/

namespace Sys2Proof.Machine

/-! ## When a tick runs to its sub-samples -/

/-- The state after steps 2 to 9, in a tick that comes so far (41_sequencer R120). -/
def enveloped (s : State) : State := envAdvance (dutySlide (modulated s))

/-- The state that goes into the sub-samples: after steps 2 to 12 (41_sequencer R120). -/
def primed (s : State) : State := hpfSweep (flangerSlide (enveloped s))

/-- A tick of this state reaches step 13: none of the causes 1 to 5 of 60_exceptions R254 applies. -/
structure ReachesSubSamples (s : State) : Prop where
  busy : s.status.state = .busy
  noCap : s.count.tickCount < s.maxTicks
  noCutoff : periodStop (pitched s) = false
  periodFits : (intPeriod (vibratoPeriod (modulated s))).isSome
  envGoesOn : envStop (dutySlide (modulated s)) = false
  offsetFits : Fp.isNaN (Fp.add (enveloped s).work.flangerOffset s.cfg.flangerSlide) = false

/-- IPER of a tick that reaches its sub-samples (10_state R37). -/
def tickPeriod (s : State) : Nat := (intPeriod (vibratoPeriod (modulated s))).getD 8

/-- ENV of a tick that reaches its sub-samples (10_state R37). -/
def tickEnv (s : State) : F64 := envValue (enveloped s)

/-- ISHIFT of a tick that reaches its sub-samples (10_state R37). -/
def tickShift (s : State) : Nat := (flangerShift (flangerSlide (enveloped s)).work.flangerOffset).getD 0

/-! ## The invariant -/

/-- The number of ticks a run has completed at this place of the envelope (43_envelope R172). -/
def envPosition (c : Cfg) (stage elapsed : Nat) : Nat :=
  match stage with
  | 0 => elapsed
  | 1 => c.envLen0.toNat + 1 + elapsed
  | _ => c.envLen0.toNat + c.envLen1.toNat + 2 + elapsed

/-- What holds of a run in progress (10_state R38 to R40, 43_envelope R172, 46_output R203). -/
structure RunInv (s : State) : Prop where
  legal : s.cfg.legal = true
  bps : s.bps = s.cfg.bps
  stage : s.run.envStage ≤ 2
  elapsed : s.run.envElapsed ≤ s.cfg.stageLen s.run.envStage
  position : s.count.tickCount = envPosition s.cfg s.run.envStage s.run.envElapsed
  summed : s.count.tickCount = s.count.outCount * s.cfg.summands + s.run.numSummed
  summedBelow : s.run.numSummed < s.cfg.summands
  repeating : s.run.repElapsed ≤ s.cfg.repeatTime.toNat
  noEvent : s.status.evt = false

/-- What holds of every state a run can reach (00_scope R9, 10_state R23, R26, R40, 20_memory R64, R72,
60_exceptions R250, R251). -/
structure StateInv (s : State) : Prop where
  params : 1 ≤ s.maxTicks ∧ s.maxTicks ≤ s.outDepth ∧ s.outDepth ≤ 2 ^ 23
  memory : Memory.wf s = true
  ticks : s.count.tickCount ≤ s.maxTicks
  outputs : s.count.outCount ≤ s.count.tickCount
  clips : s.count.clipCount ≤ s.count.outCount
  faultTick : s.count.faultTick = if s.status.state = .fault then s.count.tickCount else 0
  faultEmpty : s.status.state = .fault → s.count.outCount = 0
  ended : s.status.endReason ≠ .none ↔ s.status.state = .done
  faulted : s.status.faultCode ≠ .none ↔ s.status.state = .fault
  event : s.status.evt = true → s.status.state = .done ∨ s.status.state = .fault
  bpsLegal : s.bps = 1 ∨ s.bps = 2
  pcmWritten : ∀ a, a < s.count.outCount * s.bps → (cellRead s.pcm a).isSome
  normWritten : ∀ i, i < s.count.outCount → (cellRead s.norm i).isSome
  noiseRange : ∀ i, i < 32 → inNoiseRange (s.nbuf.getD i Fp.zero) = true
  stage : s.run.envStage ≤ 3
  phase : s.run.phase < 2 ^ 32
  ring : s.run.ipp < 1024
  repElapsed : s.run.repElapsed < 2 ^ 32
  numSummed : s.run.numSummed < 44100
  running : s.status.state = .busy → RunInv s

/-- Two states of one run: they agree on all that a tick reads or writes, but for EVT, which a tick only sets. What they
may differ in is the sticky bits, EVT, the response word, the bus and the turns (40_host_ops R102). -/
structure SameRun (s t : State) : Prop where
  state : t.status.state = s.status.state
  endReason : t.status.endReason = s.status.endReason
  faultCode : t.status.faultCode = s.status.faultCode
  nanSeen : t.status.nanSeen = s.status.nanSeen
  rest : t = ((s.setStatus t.status).setResponse t.response).setInputs t.bus t.turns

/-! ## Runs -/

/-- The tick at which a run is over at the latest (41_sequencer R125). -/
def runBound (s : State) : Nat :=
  min s.maxTicks (s.cfg.envLen0.toNat + s.cfg.envLen1.toNat + s.cfg.envLen2.toNat + 2)

/-! ## Registers by index -/

/-- The index of a register that is not unmapped (40_host_ops R100). -/
def mappedIndex (a : Nat) : Bool :=
  decide (a ≤ 0x09) || (decide (0x10 ≤ a) && decide (a ≤ 0x2B)) || (decide (0x30 ≤ a) && decide (a ≤ 0x41))

/-- The index of a CFG register (10_state R29). -/
def cfgIndex (a : Nat) : Bool := decide (0x10 ≤ a) && decide (a ≤ 0x2B)

/-- What a CFG register reads as after D was written to it: FLAGS keeps D[1:0], a u32 register D[31:0], an f64 register
every bit (10_state R21, R29, R30). -/
def cfgReadBack (a : Nat) (d : Reg64) : Reg64 :=
  if a = 0x19 then d &&& 0x0000000000000003#64
  else if a ∈ [0x10, 0x18, 0x21, 0x22, 0x23, 0x27, 0x2A, 0x2B] then d &&& 0x00000000FFFFFFFF#64
  else d

end Sys2Proof.Machine

namespace Sys2Proof.Fp

/-! ## What it is to be the rounding of an exact value -/

/-- A pattern that is neither an infinity nor a NaN (00_scope R12). -/
def isFinite (x : F64) : Bool := decide (mag x < infMag)

/-- `r` is the exact value `num / den`, in units of 2^-1074, rounded to nearest with ties to even (00_scope R13): its sign
is that of a value other than 0, it is an infinity exactly from half a unit above the largest finite value on, and no
finite pattern lies nearer, nor as near unless `r` is the even one. -/
structure RoundsTo (num : Int) (den : Nat) (r : F64) : Prop where
  notNaN : isNaN r = false
  negative : num < 0 → sign r = true
  positive : 0 < num → sign r = false
  overflow : isInf r = true ↔ (2 ^ 54 - 1) * pow2 2044 * den ≤ num.natAbs
  nearest : isInf r = false → ∀ c, isFinite c = true → |num - value r * den| ≤ |num - value c * den|
  even : isInf r = false → ∀ c, isFinite c = true → value c ≠ value r →
    |num - value r * den| = |num - value c * den| → mag r % 2 = 0

/-- The magnitude of a finite binary32 pattern, in units of 2^-149 (00_scope R12). -/
def units32 (m : Nat) : Nat :=
  if m < 2 ^ 23 then m else (2 ^ 23 + m % 2 ^ 23) * 2 ^ (m / 2 ^ 23 - 1)

end Sys2Proof.Fp
end

