-- ==== Sys2Proof/Certificates/Slice0/Obligations.lean ====
section
/-! DEFINITION. The statements for the provers. A docstring names the rule a statement formalises, and the log entry
where a clause is the model's choice. -/

section Statements

open Sys2Proof Sys2Proof.Machine

/-! ## Encoding (30_encoding R80 to R89) -/

/-- Decoding the words of a well-formed instruction, whatever follows them, gives it back (R80 to R86; that D's low word
comes first is log 2). -/
def Obligations.DecodeOfEncodeGivesTheInstruction : Prop :=
  ∀ (i : Instr) (rest : List Word), i.wellFormed = true → decode i.port (encode i ++ rest) = .instr i rest

/-- What the decoder reads is well formed, belongs to its port, and encodes to the words it was read from. -/
def Obligations.EncodeOfDecodeGivesTheWords : Prop :=
  ∀ (p : Port) (ws rest : List Word) (i : Instr), decode p ws = .instr i rest →
    i.wellFormed = true ∧ i.port = p ∧ encode i ++ rest = ws

/-- Decoding is total, and H[31:24] alone tells the length: three words when it is 0x20, one otherwise (R86, R109). That
D is two of the words is the model's choice (log 2), and so is the answer `missingData` to a header whose D has not
arrived whole (log 17). -/
def Obligations.EveryHeaderDecodesAtItsLength : Prop :=
  (∀ (h lo hi : Word) (rest : List Word), ∃ i,
    decode .bus (h :: lo :: hi :: rest) = .instr i (if h.extractLsb' 24 8 = 0x20#8 then rest else lo :: hi :: rest)) ∧
  (∀ (h : Word) (rest : List Word), h.extractLsb' 24 8 ≠ 0x20#8 → ∃ i, decode .bus (h :: rest) = .instr i rest) ∧
  (∀ (h : Word) (rest : List Word), h.extractLsb' 24 8 = 0x20#8 → rest.length < 2 →
    decode .bus (h :: rest) = .missingData) ∧
  (∀ (w : Word) (rest : List Word), ∃ i, decode .waveType (w :: rest) = .instr i rest)

/-- The seven encoding examples of R89 decode, and assemble, as printed there (the order of D's two words is log 2; the
assembler's lines stand for their parts, log 24). -/
def Obligations.ExampleWordsDecodeAsPrinted : Prop :=
  decode .bus [0x20000011#32, 0x00000000#32, 0x40300000#32] = .instr (.regWr 0x11#24 0x4030000000000000#64) [] ∧
  decode .bus [0x20000022#32, 0x00000004#32, 0x00000000#32] = .instr (.regWr 0x22#24 4#64) [] ∧
  decode .bus [0x20000001#32, 0x00000001#32, 0x00000000#32] = .instr (.cmdStart 0#56) [] ∧
  decode .bus [0x20000001#32, 0x00000002#32, 0x00000000#32] = .instr (.cmdReset 0#56) [] ∧
  decode .bus [0x10000002#32] = .instr (.regRd 0x02#24) [] ∧
  decode .bus [0x30000005#32] = .instr (.pcmRd 5#24) [] ∧
  decode .bus [0x4000001F#32] = .instr (.normRd 0x1F#24) [] ∧
  encode (assemble (.regWr (.name (.cfg .period)) (.f64 false 16 1))) =
    [0x20000011#32, 0x00000000#32, 0x40300000#32] ∧
  encode (assemble (.regWr (.name (.cfg .envLen1)) (.u 4))) = [0x20000022#32, 0x00000004#32, 0x00000000#32] ∧
  encode (assemble (.cmd .start)) = [0x20000001#32, 0x00000001#32, 0x00000000#32] ∧
  encode (assemble (.cmd .reset)) = [0x20000001#32, 0x00000002#32, 0x00000000#32] ∧
  encode (assemble (.regRd (.name .status))) = [0x10000002#32] ∧
  encode (assemble (.pcmRd 5#24)) = [0x30000005#32] ∧
  encode (assemble (.normRd 0x1F#24)) = [0x4000001F#32]

/-- A step runs what its agent fetches: the host the next transaction on the bus, the block the wave-shape code in
WAVE_TYPE, and a host without a whole transaction nothing; the instruction runs on the state whose turn is taken and
whose words are gone (20_memory R70, 41_sequencer R120; the turns are log 3, the idle turn is log 17). -/
def Obligations.StepRunsTheDecodedInstruction : Prop :=
  ∀ s : State,
    (∀ (i : Instr) (rest : List Word), nextAgent s = .host → decode .bus s.bus = .instr i rest →
      step s = exec i { s with bus := rest, turns := s.turns.tail }) ∧
    (nextAgent s = .host → (∀ i rest, decode .bus s.bus ≠ .instr i rest) →
      step s = .next { s with turns := s.turns.tail }) ∧
    (nextAgent s = .block → step s = exec (decodeWave s.cfg.waveType) { s with turns := s.turns.tail }) ∧
    (∀ a as, s.turns = a :: as → nextAgent s = a) ∧
    (s.turns = [] → (nextAgent s = .block ↔ s.status.state = .busy))

/-! ## Reset (10_state R50) -/

/-- After power-on reset every readable register answers its reset value (R50; the values of MAX_TICKS_RO and
OUT_DEPTH_RO are the parameters). -/
def Obligations.ResetRegistersReadTheirValues : Prop :=
  ∀ a : Nat, mappedIndex a = true → ∃ d : Reg64,
    exec (.regRd (BitVec.ofNat 24 a)) State.reset = .next (State.reset.setResponse d) ∧
    (a = 0x00 → d = 0x5346585200000007#64) ∧
    (a = 0x08 → d = BitVec.ofNat 64 Config.maxTicks) ∧
    (a = 0x09 → d = BitVec.ofNat 64 Config.outDepth) ∧
    (a = 0x29 → d = 0x3FF0000000000000#64) ∧
    (a = 0x2A → d = 44100#64) ∧
    (a = 0x2B → d = 8#64) ∧
    (a ∉ [0x00, 0x08, 0x09, 0x29, 0x2A, 0x2B] → d = 0#64)

/-! ## Register transactions (40_host_ops R100, R101) -/

/-- STATUS packs its fields where R23 puts them; every other bit reads 0. -/
def Obligations.StatusBitsStandWhereStated : Prop :=
  ∀ v : Status,
    v.toBits.extractLsb' 0 2 = (match v.state with | .idle => 0#2 | .busy => 1#2 | .done => 2#2 | .fault => 3#2) ∧
    v.toBits.getLsbD 2 = v.evt ∧ v.toBits.getLsbD 3 = false ∧
    v.toBits.extractLsb' 4 4 =
      (match v.endReason with | .none => 0#4 | .envEnd => 1#4 | .freqCutoff => 2#4 | .tickCap => 3#4) ∧
    v.toBits.extractLsb' 8 8 = (match v.faultCode with | .none => 0#8 | .badWave => 1#8 | .numRange => 2#8) ∧
    v.toBits.getLsbD 16 = v.errBusy ∧ v.toBits.getLsbD 17 = v.errCmd ∧ v.toBits.getLsbD 18 = v.errCfg ∧
    v.toBits.getLsbD 19 = v.errAddr ∧ v.toBits.getLsbD 20 = v.nanSeen ∧ v.toBits.extractLsb' 21 43 = 0#43

/-- REG_RD completes in every state (R100): an unmapped index answers 0 with ERR_ADDR, CMD answers 0, and every other
register its value in its format, register by register; nothing but the response, and ERR_ADDR, changes. -/
def Obligations.RegRdReadsEveryRegister : Prop :=
  ∀ s : State,
    (∀ a : BitVec 24, mappedIndex a.toNat = false →
      exec (.regRd a) s = .next { s with response := 0#64, status := { s.status with errAddr := true } }) ∧
    (∀ p ∈
      [(0x00, 0x5346585200000007#64), (0x01, 0#64), (0x02, s.status.toBits),
       (0x03, 0#62 ++ BitVec.ofBool s.ctrl.retrigOsc ++ BitVec.ofBool s.ctrl.irqEn),
       (0x04, (BitVec.ofNat 32 s.count.outCount).setWidth 64), (0x05, (BitVec.ofNat 32 s.count.clipCount).setWidth 64),
       (0x06, BitVec.ofNat 64 s.count.tickCount), (0x07, BitVec.ofNat 64 s.count.faultTick),
       (0x08, (BitVec.ofNat 32 s.maxTicks).setWidth 64), (0x09, (BitVec.ofNat 32 s.outDepth).setWidth 64),
       (0x10, s.cfg.waveType.setWidth 64), (0x11, s.cfg.period), (0x12, s.cfg.periodMax), (0x13, s.cfg.periodMult),
       (0x14, s.cfg.periodMultSlide), (0x15, s.cfg.duty), (0x16, s.cfg.dutySlide), (0x17, s.cfg.arpMult),
       (0x18, s.cfg.arpTime.setWidth 64),
       (0x19, 0#62 ++ BitVec.ofBool s.cfg.lpfEn ++ BitVec.ofBool s.cfg.cutoffEn),
       (0x1A, s.cfg.fltw), (0x1B, s.cfg.fltwD), (0x1C, s.cfg.fltdmp), (0x1D, s.cfg.flthp), (0x1E, s.cfg.flthpD),
       (0x1F, s.cfg.vibSpeed), (0x20, s.cfg.vibAmp), (0x21, s.cfg.envLen0.setWidth 64),
       (0x22, s.cfg.envLen1.setWidth 64), (0x23, s.cfg.envLen2.setWidth 64), (0x24, s.cfg.punch),
       (0x25, s.cfg.flangerOffset), (0x26, s.cfg.flangerSlide), (0x27, s.cfg.repeatTime.setWidth 64),
       (0x28, s.cfg.gain), (0x29, s.cfg.masterVol), (0x2A, s.cfg.sampleRate.setWidth 64),
       (0x2B, s.cfg.sampleSize.setWidth 64),
       (0x30, s.work.period), (0x31, s.work.periodMult), (0x32, s.work.duty), (0x33, s.work.arpTime.setWidth 64),
       (0x34, s.work.fltw), (0x35, s.work.flthp), (0x36, s.work.flangerOffset),
       (0x37, (BitVec.ofNat 32 s.run.envStage).setWidth 64), (0x38, BitVec.ofNat 64 s.run.envElapsed),
       (0x39, s.run.vibPhase), (0x3A, (BitVec.ofNat 32 s.run.phase).setWidth 64),
       (0x3B, (BitVec.ofNat 32 s.run.ipp).setWidth 64), (0x3C, s.run.fltp), (0x3D, s.run.fltdp),
       (0x3E, s.run.fltphp), (0x3F, (BitVec.ofNat 32 s.run.repElapsed).setWidth 64), (0x40, s.run.sampleSum),
       (0x41, (BitVec.ofNat 32 s.run.numSummed).setWidth 64)],
      exec (.regRd (BitVec.ofNat 24 p.1)) s = .next (s.setResponse p.2))

/-- REG_WR of a CFG register, not BUSY (R101): it completes, changes the CFG registers alone, the written one reads back
in its format and the 27 others as before. -/
def Obligations.CfgWriteReadsBackInItsFormat : Prop :=
  ∀ (s : State) (a : BitVec 24) (d : Reg64), cfgIndex a.toNat = true → s.status.state ≠ .busy →
    ∃ c : Cfg, exec (.regWr a d) s = .next (s.setCfg c) ∧
      exec (.regRd a) (s.setCfg c) = .next ((s.setCfg c).setResponse (cfgReadBack a.toNat d)) ∧
      ∀ (b : BitVec 24) (v : Reg64), cfgIndex b.toNat = true → b ≠ a →
        exec (.regRd b) s = .next (s.setResponse v) →
        exec (.regRd b) (s.setCfg c) = .next ((s.setCfg c).setResponse v)

/-- REG_WR of CTRL, not BUSY, stores bits 1:0 and nothing else (R24, R101). -/
def Obligations.CtrlWriteStoresTwoBits : Prop :=
  ∀ (s : State) (d : Reg64), s.status.state ≠ .busy →
    exec (.regWr 0x03#24 d) s =
      .next { s with ctrl := { irqEn := d.getLsbD 0, retrigOsc := d.getLsbD 1 } }

/-- REG_WR of STATUS, in every STATE, clears exactly the W1C bits written as 1 (R23, R101). -/
def Obligations.StatusWriteClearsWrittenBits : Prop :=
  ∀ (s : State) (d : Reg64), ∃ v : Status,
    exec (.regWr 0x02#24 d) s = .next (s.setStatus v) ∧
    v.toBits = s.status.toBits &&& ~~~(d &&& 0x00000000000F0004#64)

/-- REG_WR of an unmapped index or of a read-only register, in every STATE, changes nothing but ERR_ADDR (R64 (b)). -/
def Obligations.ReadOnlyWriteSetsErrAddr : Prop :=
  ∀ (s : State) (a : BitVec 24) (d : Reg64),
    (a.toNat = 0x00 ∨ (0x04 ≤ a.toNat ∧ a.toNat ≤ 0x0F) ∨ 0x2C ≤ a.toNat) →
    exec (.regWr a d) s = .next { s with status := { s.status with errAddr := true } }

/-- While BUSY a write of CTRL or of a CFG register, START and RESET change nothing but ERR_BUSY (R102). -/
def Obligations.BusyWritesAreRefused : Prop :=
  ∀ s : State, s.status.state = .busy →
    (∀ (a : BitVec 24) (d : Reg64), (a.toNat = 0x03 ∨ cfgIndex a.toNat = true) →
      exec (.regWr a d) s = .next { s with status := { s.status with errBusy := true } }) ∧
    (∀ hi, exec (.cmdStart hi) s = .next { s with status := { s.status with errBusy := true } }) ∧
    (∀ hi, exec (.cmdReset hi) s = .next { s with status := { s.status with errBusy := true } })

/-- A REG_WR to CMD is the command its D[7:0] names, whatever D[63:8] holds (R84, R101). -/
def Obligations.CmdWriteIsItsCommand : Prop :=
  ∀ (s : State) (d : Reg64),
    exec (.regWr 0x01#24 d) s = exec (decodeRegWr 0x01#24 d) s ∧
    decodeRegWr 0x01#24 d =
      (if d.extractLsb' 0 8 = 0x00#8 then .cmdNop (d.extractLsb' 8 56)
       else if d.extractLsb' 0 8 = 0x01#8 then .cmdStart (d.extractLsb' 8 56)
       else if d.extractLsb' 0 8 = 0x02#8 then .cmdReset (d.extractLsb' 8 56)
       else .cmdReserved (d.extractLsb' 8 56) (d.extractLsb' 0 8))

/-! ## Commands (40_host_ops R103 to R106) -/

/-- NOP, and a REG_WR to CMD with D[7:0] = 0, change nothing in any STATE (R103). -/
def Obligations.NopLeavesAllStateUnchanged : Prop :=
  ∀ (s : State), (∀ hi, exec (.cmdNop hi) s = .next s) ∧
    (∀ d : Reg64, d.extractLsb' 0 8 = 0x00#8 → exec (decodeRegWr 0x01#24 d) s = .next s)

/-- START (R104): refused with ERR_BUSY while BUSY, with ERR_CFG when SAMPLE_RATE or SAMPLE_SIZE is illegal, and
otherwise InitRun (10_state R45), whose BPS is SAMPLE_SIZE div 8 (log 13) and whose draws are the next 32 (log 11). -/
def Obligations.StartInitialisesTheRun : Prop :=
  ∀ (hi : BitVec 56) (s : State),
    exec (.cmdStart hi) s =
      if s.status.state = .busy then .next { s with status := { s.status with errBusy := true } }
      else if ¬ (1 ≤ s.cfg.sampleRate.toNat ∧ s.cfg.sampleRate.toNat ≤ 44100) ∨
          (s.cfg.sampleSize ≠ 8#32 ∧ s.cfg.sampleSize ≠ 16#32) then
        .next { s with status := { s.status with errCfg := true } }
      else
        .next { s with
          work :=
            { period := s.cfg.period, periodMult := s.cfg.periodMult, duty := s.cfg.duty, arpTime := s.cfg.arpTime
              fltw := s.cfg.fltw, flthp := s.cfg.flthp, flangerOffset := s.cfg.flangerOffset }
          run :=
            { envStage := 0, envElapsed := 0, vibPhase := Fp.zero, phase := 0, ipp := 0, fltp := Fp.zero
              fltdp := Fp.zero, fltphp := Fp.zero, repElapsed := 0, sampleSum := Fp.zero, numSummed := 0 }
          nbuf := drawTable s.drawCount
          drawCount := s.drawCount + 32
          fbuf := Vector.replicate 1024 Fp.zero
          count := { outCount := 0, clipCount := 0, tickCount := 0, faultTick := 0 }
          bps := s.cfg.sampleSize.toNat / 8
          status :=
            { s.status with
              state := .busy, evt := false, endReason := .none, faultCode := .none, nanSeen := false } }

/-- RESET (R105): refused with ERR_BUSY while BUSY; otherwise STATUS, the counters, the working and the run-state
registers go to 0 and everything else is kept. -/
def Obligations.ResetCommandClearsRunState : Prop :=
  ∀ (hi : BitVec 56) (s : State),
    exec (.cmdReset hi) s =
      if s.status.state = .busy then .next { s with status := { s.status with errBusy := true } }
      else
        .next { s with
          status :=
            { state := .idle, evt := false, endReason := .none, faultCode := .none, errBusy := false, errCmd := false
              errCfg := false, errAddr := false, nanSeen := false }
          count := { outCount := 0, clipCount := 0, tickCount := 0, faultTick := 0 }
          work :=
            { period := Fp.zero, periodMult := Fp.zero, duty := Fp.zero, arpTime := 0#32, fltw := Fp.zero
              flthp := Fp.zero, flangerOffset := Fp.zero }
          run :=
            { envStage := 0, envElapsed := 0, vibPhase := Fp.zero, phase := 0, ipp := 0, fltp := Fp.zero
              fltdp := Fp.zero, fltphp := Fp.zero, repElapsed := 0, sampleSum := Fp.zero, numSummed := 0 } }

/-- A reserved command sets ERR_CMD and changes nothing else, in every STATE, BUSY included (R106). -/
def Obligations.ReservedCommandSetsErrCmd : Prop :=
  ∀ (s : State),
    (∀ hi code, exec (.cmdReserved hi code) s = .next { s with status := { s.status with errCmd := true } }) ∧
    (∀ d : Reg64, 3 ≤ (d.extractLsb' 0 8).toNat →
      exec (decodeRegWr 0x01#24 d) s = .next { s with status := { s.status with errCmd := true } })

/-! ## Output and reserved transactions (40_host_ops R107 to R109) -/

/-- PCM_RD (R107): out of range it answers 0 with ERR_ADDR, otherwise the byte last written there. -/
def Obligations.PcmRdReadsTheWrittenByte : Prop :=
  ∀ (a : BitVec 24) (s : State),
    (s.count.outCount * s.bps ≤ a.toNat →
      exec (.pcmRd a) s = .next { s with response := 0#64, status := { s.status with errAddr := true } }) ∧
    (a.toNat < s.count.outCount * s.bps →
      exec (.pcmRd a) s = .next { s with response := (readPcm s a.toNat).setWidth 64 } ∧
      ∀ b, cellRead s.pcm a.toNat = some b → readPcm s a.toNat = b)

/-- NORM_RD (R108): out of range it answers 0 with ERR_ADDR, otherwise the 32 bits last written there. -/
def Obligations.NormRdReadsTheWrittenEntry : Prop :=
  ∀ (a : BitVec 24) (s : State),
    (s.count.outCount ≤ a.toNat →
      exec (.normRd a) s = .next { s with response := 0#64, status := { s.status with errAddr := true } }) ∧
    (a.toNat < s.count.outCount →
      exec (.normRd a) s = .next { s with response := (readNorm s a.toNat).setWidth 64 } ∧
      ∀ w, cellRead s.norm a.toNat = some w → readNorm s a.toNat = w)

/-- A reserved header changes nothing but ERR_ADDR and the response, which is 0 (R64 (e), R81; that a reserved header has
a response is log 19). -/
def Obligations.ReservedHeaderIsAnswered : Prop :=
  ∀ (h : Word) (s : State),
    exec (.reservedOp h) s = .next { s with response := 0#64, status := { s.status with errAddr := true } }

/-! ## Host and block together -/

/-- No host transaction raises a fault (60_exceptions R253, R256): every transaction completes and leaves PCM, NORM, the
parameters, the bus and the turns; no transaction but START and RESET changes STATE, none changes it while BUSY, and none
sets a fault code. -/
def Obligations.HostTransactionsNeverFault : Prop :=
  ∀ (i : Instr) (s : State), i.port = .bus → i.wellFormed = true → ∃ t, exec i s = .next t ∧
    t.pcm = s.pcm ∧ t.norm = s.norm ∧ t.maxTicks = s.maxTicks ∧ t.outDepth = s.outDepth ∧ t.bus = s.bus ∧
    t.turns = s.turns ∧
    ((∀ hi, i ≠ .cmdStart hi ∧ i ≠ .cmdReset hi) → t.status.state = s.status.state) ∧
    (s.status.state = .busy → t.status.state = .busy) ∧
    (t.status.state = .fault → s.status.state = .fault) ∧
    (t.status.faultCode = s.status.faultCode ∨ t.status.faultCode = .none)

/-- While BUSY no host transaction changes anything of the run: only sticky bits, EVT and the response may differ
(40_host_ops R102, 10_state R39). -/
def Obligations.HostLeavesTheRunAlone : Prop :=
  ∀ (i : Instr) (s t : State), i.port = .bus → s.status.state = .busy → exec i s = .next t → SameRun s t

/-- Once a run has started nothing the host does changes what it computes: two states of one run that differ in what the
host may change take corresponding ticks to corresponding states (40_host_ops R102, 10_state R39, 20_memory R70). -/
def Obligations.TicksIgnoreTheHost : Prop :=
  ∀ (s t s' : State) (w : Word), s.status.state = .busy → SameRun s t → exec (decodeWave w) s = .next s' →
    ∃ t', exec (decodeWave w) t = .next t' ∧ SameRun s' t'

/-- Not BUSY, the block does nothing (41_sequencer R120, 60_exceptions R275; that a wave code then leaves the state as it
is, is log 16). -/
def Obligations.IdleBlockDoesNothing : Prop :=
  ∀ (s : State) (w : Word), s.status.state ≠ .busy → exec (decodeWave w) s = .next s

/-! ## The tick (41_sequencer R120) -/

/-- WAVE_SQUARE completes (R153): the tick is eight sub-samples of Square, then Decimate and the count; the phase and the
ring index move on by eight, no draw is made, and with the low-pass off FLTP holds the last +0.5 or -0.5. -/
def Obligations.WaveSquareTickCompletes : Prop :=
  ∀ s : State, ReachesSubSamples s → s.count.outCount < s.outDepth → ∃ u acc v,
    exec .waveSquare s = .next (countTick v) ∧
    subSamples .square (tickPeriod s) (tickEnv s) (tickShift s) 8 (primed s, Fp.zero) = some (u, acc) ∧
    decimate acc u = some v ∧
    v.run.phase = (s.run.phase + 8) % tickPeriod s ∧ v.run.ipp = (s.run.ipp + 8) % 1024 ∧
    v.nbuf = s.nbuf ∧ v.drawCount = s.drawCount ∧
    (s.cfg.lpfEn = false → v.run.fltp =
      if Fp.lt (Fp.div (Fp.ofNat v.run.phase) (Fp.ofNat (tickPeriod s))) v.work.duty then Fp.half else Fp.negHalf)

/-- WAVE_SAW completes (R154): as WAVE_SQUARE, with the two ramps of the duty point. -/
def Obligations.WaveSawTickCompletes : Prop :=
  ∀ s : State, ReachesSubSamples s → s.count.outCount < s.outDepth → ∃ u acc v,
    exec .waveSaw s = .next (countTick v) ∧
    subSamples .saw (tickPeriod s) (tickEnv s) (tickShift s) 8 (primed s, Fp.zero) = some (u, acc) ∧
    decimate acc u = some v ∧
    v.run.phase = (s.run.phase + 8) % tickPeriod s ∧ v.run.ipp = (s.run.ipp + 8) % 1024 ∧
    v.nbuf = s.nbuf ∧ v.drawCount = s.drawCount ∧
    (s.cfg.lpfEn = false →
      let fp := Fp.div (Fp.ofNat v.run.phase) (Fp.ofNat (tickPeriod s))
      let d := v.work.duty
      v.run.fltp = Fp.add
        (if Fp.lt fp d then Fp.add Fp.negOne (Fp.div (Fp.mul Fp.two fp) d)
         else Fp.sub Fp.one (Fp.div (Fp.mul Fp.two (Fp.sub fp d)) (Fp.sub Fp.one d))) Fp.zero)

/-- WAVE_SINE completes (R155): as WAVE_SQUARE, with SIN of the phase in radians; SIN is free (log 10). -/
def Obligations.WaveSineTickCompletes : Prop :=
  ∀ s : State, ReachesSubSamples s → s.count.outCount < s.outDepth → ∃ u acc v,
    exec .waveSine s = .next (countTick v) ∧
    subSamples .sine (tickPeriod s) (tickEnv s) (tickShift s) 8 (primed s, Fp.zero) = some (u, acc) ∧
    decimate acc u = some v ∧
    v.run.phase = (s.run.phase + 8) % tickPeriod s ∧ v.run.ipp = (s.run.ipp + 8) % 1024 ∧
    v.nbuf = s.nbuf ∧ v.drawCount = s.drawCount ∧
    (s.cfg.lpfEn = false → v.run.fltp = Fp.add
      (Config.sin (Fp.mul (Fp.mul (Fp.div (Fp.ofNat v.run.phase) (Fp.ofNat (tickPeriod s))) Fp.two) Fp.pi64)) Fp.zero)

/-- WAVE_NOISE completes (R156): as WAVE_SQUARE, with the table entry of the phase; the table is refilled with the next 32
draws exactly when the phase wraps (R150, R157; which values are drawn is free, log 11). -/
def Obligations.WaveNoiseTickCompletes : Prop :=
  ∀ s : State, ReachesSubSamples s → s.count.outCount < s.outDepth → ∃ u acc v,
    exec .waveNoise s = .next (countTick v) ∧
    subSamples .noise (tickPeriod s) (tickEnv s) (tickShift s) 8 (primed s, Fp.zero) = some (u, acc) ∧
    decimate acc u = some v ∧
    v.run.phase = (s.run.phase + 8) % tickPeriod s ∧ v.run.ipp = (s.run.ipp + 8) % 1024 ∧
    (s.run.phase + 8 < tickPeriod s → v.nbuf = s.nbuf ∧ v.drawCount = s.drawCount) ∧
    (s.run.phase < tickPeriod s → tickPeriod s ≤ s.run.phase + 8 →
      v.nbuf = drawTable s.drawCount ∧ v.drawCount = s.drawCount + 32) ∧
    (s.cfg.lpfEn = false →
      v.run.fltp = Fp.add (v.nbuf.getD (v.run.phase * 32 / tickPeriod s) Fp.zero) Fp.zero)

/-- WAVE_ILLEGAL completes by raising BAD_WAVE at the first sub-sample: the tick is undone but for the fault record
(42_oscillator R151, 60_exceptions R251). -/
def Obligations.WaveIllegalRaisesBadWave : Prop :=
  ∀ (s : State) (w : Word), ReachesSubSamples s →
    exec (.waveIllegal w) s =
      .next { s with
        count := { s.count with faultTick := s.count.tickCount, outCount := 0, clipCount := 0 }
        status := { s.status with faultCode := .badWave, state := .fault, evt := true } }

/-- Inside a tick the first check that applies decides, in the order of 60_exceptions R254, and a tick none of them stops
completes. -/
def Obligations.FirstCheckOfATickWins : Prop :=
  ∀ (s : State) (w : Word), s.status.state = .busy → s.count.outCount < s.outDepth → ∃ t,
    exec (decodeWave w) s = .next t ∧
    (if s.maxTicks ≤ s.count.tickCount then t.status.state = .done ∧ t.status.endReason = .tickCap
     else if Fp.lt s.cfg.periodMax (pitched s).work.period = true ∧ s.cfg.cutoffEn = true then
       t.status.state = .done ∧ t.status.endReason = .freqCutoff
     else if intPeriod (vibratoPeriod (modulated s)) = none then
       t.status.state = .fault ∧ t.status.faultCode = .numRange
     else if s.cfg.stageLen s.run.envStage < s.run.envElapsed + 1 ∧ 2 ≤ s.run.envStage then
       t.status.state = .done ∧ t.status.endReason = .envEnd
     else if Fp.isNaN (Fp.add (enveloped s).work.flangerOffset s.cfg.flangerSlide) = true then
       t.status.state = .fault ∧ t.status.faultCode = .numRange
     else if 4 ≤ w.toNat then t.status.state = .fault ∧ t.status.faultCode = .badWave
     else t.status.state = .busy ∧ t.count.tickCount = s.count.tickCount + 1)

/-- The cap ends the run as the first thing of a tick, before any other state is read or written (R121, R130). -/
def Obligations.TickCapEndsTheRun : Prop :=
  ∀ (s : State) (w : Word), s.status.state = .busy → s.maxTicks ≤ s.count.tickCount →
    exec (decodeWave w) s =
      .next { s with status := { s.status with endReason := .tickCap, state := .done, evt := true } }

/-- A tick that faults is undone: everything but the fault record is as before it (60_exceptions R251). -/
def Obligations.FaultUndoesTheTick : Prop :=
  ∀ (s t : State) (w : Word), s.status.state = .busy → exec (decodeWave w) s = .next t → t.status.state = .fault →
    (t.status.faultCode = .badWave ∨ t.status.faultCode = .numRange) ∧
    t = { s with
          count := { s.count with faultTick := s.count.tickCount, outCount := 0, clipCount := 0 }
          status := { s.status with faultCode := t.status.faultCode, state := .fault, evt := true } }

/-- A normal end keeps the output and the counters, and the ending tick makes no sub-sample and no output sample; of the
working and run-state registers it keeps exactly the writes made before the end: none for TICK_CAP, those of retrigger,
arpeggio, frequency slide and limit for FREQ_CUTOFF, and also those of vibrato, duty slide and envelope for ENV_END; the
filter state stays (41_sequencer R130, 60_exceptions R255). W_PERIOD is the IEEE-754 product for every operand, a period of
+0.0 under a negative W_PERIOD_MULT included, which a corner case of R140 gives otherwise: that is log 28. -/
def Obligations.NormalEndKeepsTheOutput : Prop :=
  ∀ (s t : State) (w : Word), s.status.state = .busy → exec (decodeWave w) s = .next t → t.status.state = .done →
    t.pcm = s.pcm ∧ t.norm = s.norm ∧ t.count = s.count ∧ t.nbuf = s.nbuf ∧ t.fbuf = s.fbuf ∧
    t.drawCount = s.drawCount ∧ t.run.phase = s.run.phase ∧ t.run.ipp = s.run.ipp ∧
    t.run.sampleSum = s.run.sampleSum ∧ t.run.numSummed = s.run.numSummed ∧
    t.status = { s.status with endReason := t.status.endReason, state := .done, evt := true } ∧
    (let a := arpeggio (retrigger s)
     let m := Fp.add a.work.periodMult s.cfg.periodMultSlide
     let p := Fp.mul a.work.period m
     (t.status.endReason = .tickCap ∨ t.status.endReason = .freqCutoff ∨ t.status.endReason = .envEnd) ∧
     (t.status.endReason = .tickCap → t.work = s.work ∧ t.run = s.run) ∧
     (t.status.endReason = .freqCutoff →
       t.work = { a.work with periodMult := m, period := s.cfg.periodMax } ∧
       t.run = { s.run with repElapsed := a.run.repElapsed }) ∧
     (t.status.endReason = .envEnd →
       t.work =
         { a.work with
           periodMult := m, period := if Fp.lt s.cfg.periodMax p then s.cfg.periodMax else p
           duty := clampZeroTo Fp.half (Fp.add a.work.duty s.cfg.dutySlide) } ∧
       t.run =
         { s.run with
           repElapsed := a.run.repElapsed
           vibPhase := if Fp.lt Fp.zero s.cfg.vibAmp then Fp.add s.run.vibPhase s.cfg.vibSpeed else s.run.vibPhase
           envElapsed := 0, envStage := s.run.envStage + 1 } ∧
       3 ≤ t.run.envStage))

/-- The frame of a tick: CFG, CTRL, the parameters, BPS, the response, the sticky bits, the bus and the turns stay; in
memory only the bytes of sample OUT_COUNT can change (R120, 46_output R206). -/
def Obligations.TickLeavesTheRestUnchanged : Prop :=
  ∀ (s t : State) (w : Word), exec (decodeWave w) s = .next t →
    t.cfg = s.cfg ∧ t.ctrl = s.ctrl ∧ t.maxTicks = s.maxTicks ∧ t.outDepth = s.outDepth ∧ t.bps = s.bps ∧
    t.response = s.response ∧ t.bus = s.bus ∧ t.turns = s.turns ∧
    t.status.errBusy = s.status.errBusy ∧ t.status.errCmd = s.status.errCmd ∧ t.status.errCfg = s.status.errCfg ∧
    t.status.errAddr = s.status.errAddr ∧
    (∀ a, (a < sampleAddr s.cfg s.count.outCount ∨
        sampleAddr s.cfg s.count.outCount + sampleBytes s.cfg ≤ a) → readPcm t a = readPcm s a) ∧
    (∀ n, n ≠ s.count.outCount → readNorm t n = readNorm s n) ∧
    (t.count.outCount ≤ s.count.outCount → t.pcm = s.pcm ∧ t.norm = s.norm)

/-- What a completed tick leaves in every register that its sub-samples do not write: the working registers but W_FLTW, the
retrigger and vibrato counts, the envelope's place, the decimation count (and SAMPLE_SUM where it emits), the run
counters but CLIP_COUNT, and STATUS; and IPER is the integer period of W_PERIOD as the vibrato bends it (R120 and the
rules it calls: R140, R141, R142, R143, R144, R170, R182, R190, R201). W_PERIOD is the IEEE-754 product for every operand, a
period of +0.0 under a negative W_PERIOD_MULT included, which a corner case of R140 gives otherwise: that is log 28. -/
def Obligations.CompletedTickRegisters : Prop :=
  ∀ (s t : State) (w : Word), ReachesSubSamples s → w.toNat < 4 → exec (decodeWave w) s = .next t →
    let a := arpeggio (retrigger s)
    let emits := s.cfg.summands ≤ s.run.numSummed + 1
    t.work.periodMult = Fp.add a.work.periodMult s.cfg.periodMultSlide ∧
    t.work.period =
      (let p := Fp.mul a.work.period t.work.periodMult
       if Fp.lt s.cfg.periodMax p then s.cfg.periodMax else p) ∧
    intPeriod (if Fp.lt Fp.zero s.cfg.vibAmp then
        Fp.mul t.work.period (Fp.add Fp.one (Fp.mul (Config.sin t.run.vibPhase) s.cfg.vibAmp))
      else t.work.period) = some (tickPeriod s) ∧
    t.work.duty = clampZeroTo Fp.half (Fp.add a.work.duty s.cfg.dutySlide) ∧
    t.work.arpTime = a.work.arpTime ∧
    t.work.flthp = (if Fp.ne s.cfg.flthpD Fp.zero then clampHighpass (Fp.mul a.work.flthp s.cfg.flthpD)
      else a.work.flthp) ∧
    t.work.flangerOffset = Fp.add a.work.flangerOffset s.cfg.flangerSlide ∧
    t.run.repElapsed = a.run.repElapsed ∧
    t.run.vibPhase = (if Fp.lt Fp.zero s.cfg.vibAmp then Fp.add s.run.vibPhase s.cfg.vibSpeed else s.run.vibPhase) ∧
    (if s.cfg.stageLen s.run.envStage < s.run.envElapsed + 1 then
       t.run.envStage = s.run.envStage + 1 ∧ t.run.envElapsed = 0
     else t.run.envStage = s.run.envStage ∧ t.run.envElapsed = s.run.envElapsed + 1) ∧
    t.run.numSummed = (if emits then 0 else s.run.numSummed + 1) ∧
    (emits → t.run.sampleSum = Fp.zero) ∧
    t.count.tickCount = s.count.tickCount + 1 ∧ t.count.faultTick = s.count.faultTick ∧
    t.count.outCount = (if emits then s.count.outCount + 1 else s.count.outCount) ∧
    t.status = { s.status with nanSeen := t.status.nanSeen } ∧
    (s.status.nanSeen = true → t.status.nanSeen = true)

/-! ## The operations of a tick, one by one -/

/-- Retrigger (R123): with REPEAT_TIME = 0 nothing changes; otherwise REP_ELAPSED counts up, and where it reaches
REPEAT_TIME it restarts at 0 and the working registers are reloaded, the last three of them only with RETRIG_OSC = 0. -/
def Obligations.RetriggerReloadsEveryRepeatTime : Prop :=
  ∀ s : State,
    retrigger s =
      if s.cfg.repeatTime = 0#32 then s
      else if s.run.repElapsed + 1 < s.cfg.repeatTime.toNat then
        { s with run := { s.run with repElapsed := s.run.repElapsed + 1 } }
      else
        { s with
          run := { s.run with repElapsed := 0 }
          work :=
            { period := s.cfg.period, periodMult := s.cfg.periodMult, duty := s.cfg.duty, arpTime := s.cfg.arpTime
              fltw := if s.ctrl.retrigOsc then s.work.fltw else s.cfg.fltw
              flthp := if s.ctrl.retrigOsc then s.work.flthp else s.cfg.flthp
              flangerOffset := if s.ctrl.retrigOsc then s.work.flangerOffset else s.cfg.flangerOffset } }

/-- Arpeggio (R122): where W_ARP_TIME is not 0 and T has reached it, it is zeroed and W_PERIOD multiplied by ARP_MULT;
otherwise nothing changes; a second arpeggio after the first changes nothing. -/
def Obligations.ArpeggioFiresOnce : Prop :=
  ∀ s : State,
    arpeggio s =
      (if s.work.arpTime ≠ 0#32 ∧ s.work.arpTime.toNat ≤ s.count.tickCount then
        { s with work := { s.work with arpTime := 0#32, period := Fp.mul s.work.period s.cfg.arpMult } }
      else s) ∧
    arpeggio (arpeggio s) = arpeggio s

/-- IntPeriod (R143): NaN and a floor above 2^32 - 1 give no IPER (the tick raises NUM_RANGE); otherwise IPER is the floor,
and 8 where that is smaller; so 8 <= IPER <= 2^32 - 1. Its operand RF is W_PERIOD, multiplied by
1.0 + SIN(VIB_PHASE) * VIB_AMP of the advanced phase where VIB_AMP > 0, and the vibrato writes VIB_PHASE only (R142). -/
def Obligations.IntPeriodIsBoundedOrFaults : Prop :=
  ∀ rf : F64,
    (Fp.isNaN rf = true → intPeriod rf = none) ∧
    (Fp.floor rf = .posInf → intPeriod rf = none) ∧
    (Fp.floor rf = .negInf → intPeriod rf = some 8) ∧
    (∀ k : Int, Fp.floor rf = .fin k →
      intPeriod rf = if 4294967295 < k then none else if k < 8 then some 8 else some k.toNat) ∧
    (∀ n, intPeriod rf = some n → 8 ≤ n ∧ n ≤ 4294967295) ∧
    (∀ s : State,
      let phase := Fp.add s.run.vibPhase s.cfg.vibSpeed
      (Fp.lt Fp.zero s.cfg.vibAmp = true →
        vibratoAdvance s = { s with run := { s.run with vibPhase := phase } } ∧
        vibratoPeriod (vibratoAdvance s) =
          Fp.mul s.work.period (Fp.add Fp.one (Fp.mul (Config.sin phase) s.cfg.vibAmp))) ∧
      (Fp.lt Fp.zero s.cfg.vibAmp = false → vibratoAdvance s = s ∧ vibratoPeriod (vibratoAdvance s) = s.work.period))

/-- The tap distance ISHIFT of a slid offset (R190): none exactly for a NaN, otherwise the magnitude of the floor, at most
1023. -/
def Obligations.FlangerShiftIsClamped : Prop :=
  ∀ x : F64,
    (flangerShift x = none ↔ Fp.isNaN x = true) ∧
    (Fp.floor x = .posInf → flangerShift x = some 1023) ∧
    (Fp.floor x = .negInf → flangerShift x = some 1023) ∧
    (∀ k : Int, Fp.floor x = .fin k → flangerShift x = some (min k.natAbs 1023)) ∧
    (∀ d, flangerShift x = some d → d ≤ 1023)

/-- The wave-shape dispatch and the five shapes (R85, R151, R153 to R156): the codes 0, 1, 2 and 3 run a tick of Square,
Saw, Sine and Noise, every code from 4 on one of the illegal shape; the Square and the two ramps of the Saw at the duty
point, SIN of the phase in radians, the noise table's entry at a legal index, and no value for an illegal code. -/
def Obligations.WaveformOfEachShape : Prop :=
  ∀ (iper : Nat) (s : State),
    let fp := Fp.div (Fp.ofNat s.run.phase) (Fp.ofNat iper)
    let d := s.work.duty
    waveform .square iper s = some (if Fp.lt fp d then Fp.half else Fp.negHalf) ∧
    waveform .saw iper s = some
      (if Fp.lt fp d then Fp.add Fp.negOne (Fp.div (Fp.mul Fp.two fp) d)
       else Fp.sub Fp.one (Fp.div (Fp.mul Fp.two (Fp.sub fp d)) (Fp.sub Fp.one d))) ∧
    waveform .sine iper s = some (Config.sin (Fp.mul (Fp.mul fp Fp.two) Fp.pi64)) ∧
    (s.run.phase < iper → s.run.phase * 32 / iper < 32 ∧
      waveform .noise iper s = some (s.nbuf.getD (s.run.phase * 32 / iper) Fp.zero)) ∧
    waveform .illegal iper s = none ∧
    exec (decodeWave 0#32) s = tick .square s ∧ exec (decodeWave 1#32) s = tick .saw s ∧
    exec (decodeWave 2#32) s = tick .sine s ∧ exec (decodeWave 3#32) s = tick .noise s ∧
    (∀ w : Word, 4 ≤ w.toNat → decodeWave w = .waveIllegal w ∧ exec (decodeWave w) s = tick .illegal s)

/-- One sub-sample of a waveform value X: sweep, low-pass, high-pass, flanger tap, and the sum (R150, R180, R181, R183,
R191, R200). That a refilled table holds the draws from the model's own draw index on, and that the index grows by 32, is
log 11; that W_FLTW is the IEEE-754 product for every operand, a FLTW_D of +0.0 included, is log 29. -/
def Obligations.SubSampleFollowsItsRules : Prop :=
  ∀ (sh : Shape) (iper shift : Nat) (env acc x : F64) (s : State),
    s.run.ipp < 1024 → shift ≤ 1023 → waveform sh iper (phaseAdvance sh iper s) = some x →
    ∃ (t : State) (sum : F64), subSample sh iper env shift (s, acc) = some (t, sum) ∧
      t.work = { s.work with fltw := clampZeroTo Fp.tenth (Fp.mul s.work.fltw s.cfg.fltwD) } ∧
      t.run.fltdp =
        (if s.cfg.lpfEn then
          Fp.sub (Fp.add s.run.fltdp (Fp.mul (Fp.sub x s.run.fltp) t.work.fltw))
            (Fp.mul (Fp.add s.run.fltdp (Fp.mul (Fp.sub x s.run.fltp) t.work.fltw)) s.cfg.fltdmp)
        else Fp.zero) ∧
      t.run.fltp = Fp.add (if s.cfg.lpfEn then s.run.fltp else x) t.run.fltdp ∧
      t.run.fltphp =
        Fp.sub (Fp.add s.run.fltphp (Fp.sub t.run.fltp s.run.fltp))
          (Fp.mul (Fp.add s.run.fltphp (Fp.sub t.run.fltp s.run.fltp)) s.work.flthp) ∧
      sum = Fp.add acc (Fp.mul (Fp.add t.run.fltphp
        (if shift = 0 then t.run.fltphp else s.fbuf.getD ((s.run.ipp + 1024 - shift) % 1024) Fp.zero)) env) ∧
      t.run =
        { s.run with
          phase := (s.run.phase + 1) % iper, ipp := (s.run.ipp + 1) % 1024
          fltp := t.run.fltp, fltdp := t.run.fltdp, fltphp := t.run.fltphp } ∧
      (∀ k, k < 1024 → t.fbuf.getD k Fp.zero = if k = s.run.ipp then t.run.fltphp else s.fbuf.getD k Fp.zero) ∧
      (if sh = .noise ∧ iper ≤ s.run.phase + 1 then
         t.nbuf = drawTable s.drawCount ∧ t.drawCount = s.drawCount + 32
       else t.nbuf = s.nbuf ∧ t.drawCount = s.drawCount)

/-- The envelope value (R171) of the attack, the sustain with punch, and the decay, with envf = 1.0 for a stage of length 0
(a PUNCH that is not finite is log 25). -/
def Obligations.EnvelopeValueOfEachStage : Prop :=
  ∀ s : State,
    let len := s.cfg.stageLen s.run.envStage
    let envf := if len = 0 then Fp.one else Fp.div (Fp.ofNat s.run.envElapsed) (Fp.ofNat len)
    (s.run.envStage = 0 → len = s.cfg.envLen0.toNat ∧ envValue s = envf) ∧
    (s.run.envStage = 1 → len = s.cfg.envLen1.toNat ∧
      envValue s = Fp.add Fp.one (Fp.mul (Fp.mul (Fp.sub Fp.one envf) Fp.two) s.cfg.punch)) ∧
    (s.run.envStage = 2 → len = s.cfg.envLen2.toNat ∧ envValue s = Fp.sub Fp.one envf)

/-- The clamps of the duty and filter sweeps (R144, R180, R182), each exactly: a number below the low bound gives that
bound (+0.0, or 1e-5), a number above the high bound gives that bound (0.5, or 0.1), a number in range (-0.0 among
them, for a low bound of +0.0) and a NaN stay what they are; so the result lies in range or is a NaN. -/
def Obligations.SweptRegistersStayInRange : Prop :=
  ∀ x : F64,
    (Fp.isNaN x = true → clampZeroTo Fp.half x = x ∧ clampZeroTo Fp.tenth x = x ∧ clampHighpass x = x) ∧
    (Fp.lt x Fp.zero = true → clampZeroTo Fp.half x = Fp.zero ∧ clampZeroTo Fp.tenth x = Fp.zero) ∧
    (Fp.lt x Fp.tenMicro = true → clampHighpass x = Fp.tenMicro) ∧
    (Fp.lt Fp.half x = true → clampZeroTo Fp.half x = Fp.half) ∧
    (Fp.lt Fp.tenth x = true → clampZeroTo Fp.tenth x = Fp.tenth ∧ clampHighpass x = Fp.tenth) ∧
    (Fp.le Fp.zero x = true → Fp.le x Fp.half = true → clampZeroTo Fp.half x = x) ∧
    (Fp.le Fp.zero x = true → Fp.le x Fp.tenth = true → clampZeroTo Fp.tenth x = x) ∧
    (Fp.le Fp.tenMicro x = true → Fp.le x Fp.tenth = true → clampHighpass x = x) ∧
    (Fp.isNaN x = false →
      (Fp.le Fp.zero (clampZeroTo Fp.half x) = true ∧ Fp.le (clampZeroTo Fp.half x) Fp.half = true) ∧
      (Fp.le Fp.zero (clampZeroTo Fp.tenth x) = true ∧ Fp.le (clampZeroTo Fp.tenth x) Fp.tenth = true) ∧
      (Fp.le Fp.tenMicro (clampHighpass x) = true ∧ Fp.le (clampHighpass x) Fp.tenth = true))

/-! ## Output (46_output) -/

/-- The quantisers (R207 to R209), each exactly. A NaN gives the midpoint, clipped, with the NaN mark. Any other V has a
scaled value t, (V + 1.0) * 128.0 or V * 32768.0, that is no NaN: from 256.0 (32768.0) on it is clipped to 255 (32767),
below 0.0 (-32768.0) to 0 (-32768), and in between it gives floor(t), an integer in range, unclipped. -/
def Obligations.QuantisersStayInRange : Prop :=
  ∀ v : F64,
    (Fp.isNaN v = true → quant8 v = { value := 128, clipped := true, nan := true } ∧
      quant16 v = { value := 0, clipped := true, nan := true }) ∧
    (Fp.isNaN v = false →
      (let t := Fp.mul (Fp.add v Fp.one) 0x4060000000000000#64
       Fp.isNaN t = false ∧
       (Fp.le 0x4070000000000000#64 t = true → quant8 v = { value := 255, clipped := true, nan := false }) ∧
       (Fp.lt t Fp.zero = true → quant8 v = { value := 0, clipped := true, nan := false }) ∧
       (Fp.le Fp.zero t = true → Fp.lt t 0x4070000000000000#64 = true → ∃ k : Int, Fp.floor t = .fin k ∧
         0 ≤ k ∧ k ≤ 255 ∧ quant8 v = { value := k, clipped := false, nan := false })) ∧
      (let t := Fp.mul v 0x40E0000000000000#64
       Fp.isNaN t = false ∧
       (Fp.le 0x40E0000000000000#64 t = true → quant16 v = { value := 32767, clipped := true, nan := false }) ∧
       (Fp.lt t 0xC0E0000000000000#64 = true → quant16 v = { value := -32768, clipped := true, nan := false }) ∧
       (Fp.le 0xC0E0000000000000#64 t = true → Fp.lt t 0x40E0000000000000#64 = true → ∃ k : Int,
         Fp.floor t = .fin k ∧ -32768 ≤ k ∧ k ≤ 32767 ∧
         quant16 v = { value := k, clipped := false, nan := false })))

/-- An emitted sample reads back from both memories: the NORM bits of the scaled value, the byte of an 8-bit sample, the
little-endian pair of a 16-bit one; the counters and NAN_SEEN follow the quantiser (R202, R205, R206, R63). -/
def Obligations.EmittedSampleReadsBack : Prop :=
  ∀ (v : F64) (s t : State), emit v s = some t →
    let w := Fp.mul (Fp.mul (Fp.div v Fp.eight) s.cfg.masterVol) s.cfg.gain
    let n := s.count.outCount
    readNorm t n = (if Fp.isNaN w then 0x7FC00000#32 else Fp.toF32 w) ∧
    (s.cfg.sampleSize = 8#32 → (readPcm t n).toNat = (quant8 w).value.toNat ∧
      t.count.clipCount = (if (quant8 w).clipped then s.count.clipCount + 1 else s.count.clipCount)) ∧
    (s.cfg.sampleSize = 16#32 → (readPcm t (2 * n + 1) ++ readPcm t (2 * n)).toInt = (quant16 w).value ∧
      t.count.clipCount = (if (quant16 w).clipped then s.count.clipCount + 1 else s.count.clipCount)) ∧
    t.count.outCount = n + 1 ∧ t.status.nanSeen = (s.status.nanSeen || Fp.isNaN w) ∧
    t.run = s.run ∧ t.work = s.work ∧ t.count.tickCount = s.count.tickCount

/-- Decimate (R201): it emits at every SUMMANDS-th tick and keeps the sum otherwise. -/
def Obligations.DecimationEmitsEverySummandsTicks : Prop :=
  ∀ (acc : F64) (s : State),
    let sum := Fp.add s.run.sampleSum acc
    (s.run.numSummed + 1 < s.cfg.summands →
      decimate acc s = some { s with run := { s.run with sampleSum := sum, numSummed := s.run.numSummed + 1 } }) ∧
    (s.cfg.summands ≤ s.run.numSummed + 1 →
      decimate acc s = emit (Fp.div sum (Fp.ofNat s.cfg.summands))
        { s with run := { s.run with sampleSum := Fp.zero, numSummed := 0 } }) ∧
    s.cfg.summands = 44100 / s.cfg.sampleRate.toNat

/-! ## Binary64 (00_scope R13 to R15) -/

/-- Rounding (R13): of all finite magnitudes the one nearest to the exact quotient, the even one of two equally near; and
infinity exactly from half a unit above the largest finite value on. The same of `to_f32` over the binary32 magnitudes,
with the sign kept (R205). -/
def Obligations.RoundingIsToNearestEven : Prop :=
  (∀ num den : Nat, 0 < den →
    let r := Fp.roundMag 52 Fp.infMag num den
    (r = Fp.infMag ↔ (2 ^ 54 - 1) * Fp.pow2 2044 * den ≤ num) ∧
    (r < Fp.infMag → ∀ m, m < Fp.infMag →
      |(num : Int) - (Fp.units r * den : Nat)| ≤ |(num : Int) - (Fp.units m * den : Nat)| ∧
      (m ≠ r → |(num : Int) - (Fp.units r * den : Nat)| = |(num : Int) - (Fp.units m * den : Nat)| → r % 2 = 0))) ∧
  (∀ x : F64, Fp.isNaN x = false →
    let r := (Fp.toF32 x).toNat % 2 ^ 31
    let v := Fp.units (Fp.mag x)
    ((Fp.toF32 x).getLsbD 31 = Fp.sign x) ∧ r ≤ 255 * 2 ^ 23 ∧
    (r = 255 * 2 ^ 23 ↔ Fp.isInf x = true ∨ (2 ^ 25 - 1) * Fp.pow2 252 * Fp.unitsPerUnit32 ≤ v) ∧
    (r < 255 * 2 ^ 23 → ∀ m, m < 255 * 2 ^ 23 →
      |(v : Int) - (Fp.units32 r * Fp.unitsPerUnit32 : Nat)| ≤ |(v : Int) - (Fp.units32 m * Fp.unitsPerUnit32 : Nat)| ∧
      (m ≠ r → |(v : Int) - (Fp.units32 r * Fp.unitsPerUnit32 : Nat)| =
        |(v : Int) - (Fp.units32 m * Fp.unitsPerUnit32 : Nat)| → r % 2 = 0)))

/-- The four operators (R13): of two finite operands each rounds the exact sum, difference, product or quotient once, with
IEEE-754's sign of a zero result; a NaN operand and an invalid operation give a NaN, an infinite operand or a division by
zero the infinity or zero of the right sign; and an integer below 2^53 converts exactly. -/
def Obligations.ArithmeticRoundsTheExactResult : Prop :=
  ∀ a b : F64,
    (Fp.isNaN a = true ∨ Fp.isNaN b = true →
      Fp.isNaN (Fp.add a b) = true ∧ Fp.isNaN (Fp.sub a b) = true ∧ Fp.isNaN (Fp.mul a b) = true ∧
      Fp.isNaN (Fp.div a b) = true) ∧
    (Fp.isFinite a = true → Fp.isFinite b = true →
      Fp.RoundsTo (Fp.value a + Fp.value b) 1 (Fp.add a b) ∧
      (Fp.value a + Fp.value b = 0 → Fp.sign (Fp.add a b) = (Fp.sign a && Fp.sign b)) ∧
      Fp.RoundsTo (Fp.value a - Fp.value b) 1 (Fp.sub a b) ∧
      (Fp.value a - Fp.value b = 0 → Fp.sign (Fp.sub a b) = (Fp.sign a && !Fp.sign b)) ∧
      Fp.RoundsTo (Fp.value a * Fp.value b) Fp.unitsPerOne (Fp.mul a b) ∧
      Fp.sign (Fp.mul a b) = (Fp.sign a != Fp.sign b) ∧
      (Fp.mag b ≠ 0 →
        Fp.RoundsTo ((if Fp.sign b then -Fp.value a else Fp.value a) * Fp.unitsPerOne) (Fp.units (Fp.mag b))
          (Fp.div a b) ∧
        Fp.sign (Fp.div a b) = (Fp.sign a != Fp.sign b)) ∧
      (Fp.mag b = 0 → if Fp.mag a = 0 then Fp.isNaN (Fp.div a b) = true
        else Fp.isInf (Fp.div a b) = true ∧ Fp.sign (Fp.div a b) = (Fp.sign a != Fp.sign b))) ∧
    (Fp.isInf a = true → Fp.isNaN b = false →
      (if Fp.isInf b = true ∧ Fp.sign a ≠ Fp.sign b then Fp.isNaN (Fp.add a b) = true else Fp.add a b = a) ∧
      (if Fp.isInf b = true ∧ Fp.sign a = Fp.sign b then Fp.isNaN (Fp.sub a b) = true else Fp.sub a b = a) ∧
      (if Fp.mag b = 0 then Fp.isNaN (Fp.mul a b) = true
       else Fp.isInf (Fp.mul a b) = true ∧ Fp.sign (Fp.mul a b) = (Fp.sign a != Fp.sign b)) ∧
      (if Fp.isInf b = true then Fp.isNaN (Fp.div a b) = true
       else Fp.isInf (Fp.div a b) = true ∧ Fp.sign (Fp.div a b) = (Fp.sign a != Fp.sign b))) ∧
    (Fp.isFinite a = true → Fp.isInf b = true →
      Fp.add a b = b ∧ (Fp.isInf (Fp.sub a b) = true ∧ Fp.sign (Fp.sub a b) = !Fp.sign b) ∧
      (if Fp.mag a = 0 then Fp.isNaN (Fp.mul a b) = true
       else Fp.isInf (Fp.mul a b) = true ∧ Fp.sign (Fp.mul a b) = (Fp.sign a != Fp.sign b)) ∧
      Fp.mag (Fp.div a b) = 0 ∧ Fp.sign (Fp.div a b) = (Fp.sign a != Fp.sign b)) ∧
    (∀ n : Nat, n < 2 ^ 53 →
      Fp.isFinite (Fp.ofNat n) = true ∧ Fp.value (Fp.ofNat n) = (n * Fp.unitsPerOne : Nat) ∧
      Fp.sign (Fp.ofNat n) = false)

/-- The comparisons (R14): of finite patterns they are those of their values, plus infinity lies above and minus infinity
below every other number, `!=` is the opposite of `==`, and every comparison with a NaN is false but `!=`. -/
def Obligations.ComparisonsFollowTheValues : Prop :=
  ∀ a b : F64,
    (Fp.isNaN a = false → Fp.isInf a = false → Fp.isNaN b = false → Fp.isInf b = false →
      (Fp.lt a b = true ↔ Fp.value a < Fp.value b) ∧ (Fp.le a b = true ↔ Fp.value a ≤ Fp.value b) ∧
      (Fp.eq a b = true ↔ Fp.value a = Fp.value b)) ∧
    (Fp.isNaN a = false →
      let top : F64 := 0x7FF0000000000000#64
      let bottom : F64 := 0xFFF0000000000000#64
      (Fp.lt a top = true ↔ a ≠ top) ∧ Fp.le a top = true ∧ Fp.lt top a = false ∧ (Fp.le top a = true ↔ a = top) ∧
      (Fp.lt bottom a = true ↔ a ≠ bottom) ∧ Fp.le bottom a = true ∧ Fp.lt a bottom = false ∧
      (Fp.le a bottom = true ↔ a = bottom) ∧
      (Fp.eq a top = true ↔ a = top) ∧ (Fp.eq a bottom = true ↔ a = bottom)) ∧
    Fp.eq a b = Fp.eq b a ∧ (Fp.ne a b = true ↔ Fp.eq a b = false) ∧
    (Fp.isNaN a = true ∨ Fp.isNaN b = true →
      Fp.lt a b = false ∧ Fp.le a b = false ∧ Fp.eq a b = false ∧ Fp.ne a b = true)

/-- Floor (R15): the greatest integer not above a finite value; infinities and NaN stay what they are. -/
def Obligations.FloorIsTheGreatestIntegerBelow : Prop :=
  ∀ x : F64,
    (∀ k : Int, Fp.floor x = .fin k →
      k * (Fp.unitsPerOne : Int) ≤ Fp.value x ∧ Fp.value x < (k + 1) * (Fp.unitsPerOne : Int)) ∧
    ((∃ k, Fp.floor x = .fin k) ↔ (Fp.isNaN x = false ∧ Fp.isInf x = false)) ∧
    (Fp.floor x = .nan ↔ Fp.isNaN x = true) ∧
    (Fp.isInf x = true → Fp.isNaN x = false → Fp.floor x = if Fp.sign x then .negInf else .posInf)

/-- Every call of Draw gives a value in [-1, 1), and a filled table holds 32 successive calls in index order (R157; which
values is free, log 11). -/
def Obligations.DrawsLieInTheNoiseRange : Prop :=
  ∀ n : Nat, (Fp.le Fp.negOne (draw n) = true ∧ Fp.lt (draw n) Fp.one = true) ∧
    ∀ i, i < 32 → (drawTable n).getD i Fp.zero = draw (n + i)

/-! ## Interrupt, driver -/

/-- IRQ is IRQ_EN and EVT (60_exceptions R260), and where the invariant holds a raised IRQ means the run is over. -/
def Obligations.IrqMeansTheRunIsOver : Prop :=
  ∀ s : State, (s.irq = true ↔ s.ctrl.irqEn = true ∧ s.status.evt = true) ∧
    (StateInv s → s.irq = true → s.status.state = .done ∨ s.status.state = .fault)

/-- CLEAR_ERR clears EVT and the four sticky bits and nothing else, in every STATE (47_host_driver R226). -/
def Obligations.ClearErrClearsFiveBits : Prop :=
  ∀ s : State,
    clearErr = .regWr 0x02#24 0x00000000000F0004#64 ∧
    exec clearErr s =
      .next { s with status :=
        { s.status with evt := false, errBusy := false, errCmd := false, errCfg := false, errAddr := false } }

/-- LOAD_RAW is 28 register writes in index order, and run in a state that is not BUSY it leaves the CFG registers holding
the derived constants and changes nothing else (47_host_driver R223; the formulas are log 20). -/
def Obligations.LoadRawWritesEveryCfgRegister : Prop :=
  ∀ (p : RawParams) (s : State), s.status.state ≠ .busy →
    execAll (loadRaw p) s = some (s.setCfg (rawCfg p)) ∧ (loadRaw p).length = 28 ∧
    ∀ k, k < 28 → ∃ d, (loadRaw p)[k]? = some (.regWr (BitVec.ofNat 24 (0x10 + k)) d)

/-! ## Runs -/

/-- The reset state meets the invariant. Two of its clauses hold there by the model's own reset values, for which the spec
gives none: `noiseRange` by an NBUF of +0.0 (log 7: R34 and R50 leave its contents unspecified), and `bpsLegal` by a BPS
of 1 before the first START (log 13). The others follow from the reset values of R50 and the bounds of R9. -/
def Obligations.ResetMeetsTheInvariant : Prop := StateInv State.reset

/-- Every step keeps the invariant: the memories' canonical form, the bounds of every counter, the legal combinations of
STATUS, and where the envelope and the decimator of a run stand (R40, R172, R203, R72). -/
def Obligations.StepKeepsTheInvariant : Prop :=
  ∀ s t : State, StateInv s → step s = .next t → StateInv t

/-- Where the invariant holds the machine never stops: no step faults or refuses (40_host_ops R109, 60_exceptions R253,
46_output R203). -/
def Obligations.StepNeverStops : Prop :=
  ∀ s : State, StateInv s → ∃ t, step s = .next t

/-- Every run ends, in DONE or FAULT, by the tick with T = min(MAX_TICKS, L0 + L1 + L2 + 2) (41_sequencer R125): ticking
never stops short, and after more ticks than that the run is over. -/
def Obligations.EveryRunEndsWithinItsBound : Prop :=
  ∀ (s : State) (n : Nat), StateInv s → s.status.state = .busy → ∃ t, blockTicks n s = some t ∧
    t.count.tickCount ≤ min s.maxTicks (s.cfg.envLen0.toNat + s.cfg.envLen1.toNat + s.cfg.envLen2.toNat + 2) ∧
    (min s.maxTicks (s.cfg.envLen0.toNat + s.cfg.envLen1.toNat + s.cfg.envLen2.toNat + 2) <
        s.count.tickCount + n → t.status.state = .done ∨ t.status.state = .fault)

/-- A run whose first slid period passes PERIOD_MAX with CUTOFF_EN ends at tick 0 with FREQ_CUTOFF and no output, whatever
WAVE_TYPE holds (41_sequencer R126). -/
def Obligations.CutoffAtTickZeroGivesNoOutput : Prop :=
  ∀ (s : State) (hi : BitVec 56), s.status.state ≠ .busy → 1 ≤ s.maxTicks → s.cfg.legal = true →
    s.cfg.cutoffEn = true →
    Fp.lt s.cfg.periodMax
      (Fp.mul s.cfg.period (Fp.add s.cfg.periodMult s.cfg.periodMultSlide)) = true →
    ∃ t u, exec (.cmdStart hi) s = .next t ∧ exec (decodeWave t.cfg.waveType) t = .next u ∧
      u.status.state = .done ∧ u.status.endReason = .freqCutoff ∧ u.count.outCount = 0 ∧ u.count.tickCount = 0 ∧
      u.work.period = s.cfg.periodMax

end Statements
end

