-- ==== Sys2Proof/Laws/Registers.lean ====
section
/-! SUPPORT. The register map, said once: which index names which register, and what a CFG write changes. -/

namespace Sys2Proof.Machine

/-- An index below 256 as an ADDR field. -/
theorem regOfAddr_ofNat {n : Nat} (h : n < 256) : regOfAddr (BitVec.ofNat 24 n) = regOfIndex (BitVec.ofNat 8 n) := by
  unfold regOfAddr
  rw [if_pos]
  · congr 1; apply BitVec.eq_of_toNat_eq; simp
  · apply BitVec.eq_of_toNat_eq; simp; omega

/-- ADDR[23:8] other than 0 names no register (30_encoding R82). -/
theorem regOfAddr_high {a : BitVec 24} (h : 256 ≤ a.toNat) : regOfAddr a = none := by
  unfold regOfAddr
  rw [if_neg]
  intro h0
  have := congrArg BitVec.toNat h0
  simp at this
  omega

/-- A register's own index names it. -/
theorem regOfAddr_addrOfReg (r : Reg) : regOfAddr (addrOfReg r) = some r := by
  cases r with
  | cmd => decide
  | status => decide
  | ctrl => decide
  | ro r => cases r <;> decide
  | cfg r => cases r <;> decide

/-- What an index names, as a Bool: a register with that index, or nothing outside the mapped ones. -/
def indexNamed (n : Nat) : Bool :=
  match regOfIndex (BitVec.ofNat 8 n) with
  | none => !mappedIndex n
  | some r => mappedIndex n && addrOfReg r == BitVec.ofNat 24 n

/-- What an 8-bit index names, all 256 of them at once. -/
theorem indexNamed_all : ∀ n, n < 256 → indexNamed n = true := by decide +kernel

theorem regOfIndex_none {n : Nat} (h : n < 256) (hr : regOfIndex (BitVec.ofNat 8 n) = none) : mappedIndex n = false := by
  have := indexNamed_all n h
  simpa [indexNamed, hr] using this

theorem regOfIndex_some {n : Nat} {r : Reg} (h : n < 256) (hr : regOfIndex (BitVec.ofNat 8 n) = some r) :
    mappedIndex n = true ∧ addrOfReg r = BitVec.ofNat 24 n := by
  have := indexNamed_all n h
  simpa [indexNamed, hr] using this

/-- The unmapped indices (40_host_ops R100). -/
theorem regOfAddr_eq_none (a : BitVec 24) : regOfAddr a = none ↔ mappedIndex a.toNat = false := by
  by_cases h : a.toNat < 256
  · have ha : regOfAddr a = regOfIndex (BitVec.ofNat 8 a.toNat) := by
      rw [← regOfAddr_ofNat h]; simp
    cases hr : regOfIndex (BitVec.ofNat 8 a.toNat) with
    | none => rw [ha, hr]; simp [regOfIndex_none h hr]
    | some r => rw [ha, hr]; simp [(regOfIndex_some h hr).1]
  · rw [regOfAddr_high (by omega)]
    simp only [mappedIndex, true_iff, Bool.or_eq_false_iff, Bool.and_eq_false_imp, decide_eq_false_iff_not,
      decide_eq_true_eq]
    omega

/-- An ADDR names a register exactly when it is that register's index. -/
theorem regOfAddr_eq_some (a : BitVec 24) (r : Reg) : regOfAddr a = some r ↔ a = addrOfReg r := by
  constructor
  · intro hr
    by_cases h : a.toNat < 256
    · have ha : a = BitVec.ofNat 24 a.toNat := by simp
      rw [ha, regOfAddr_ofNat h] at hr
      rw [(regOfIndex_some h hr).2]; exact ha
    · rw [regOfAddr_high (by omega)] at hr; simp at hr
  · rintro rfl; exact regOfAddr_addrOfReg r

theorem cfgIndex_named : ∀ n, n < 0x2C → cfgIndex n = true →
    match regOfAddr (BitVec.ofNat 24 n) with
    | some (.cfg _) => True
    | _ => False := by
  intro n hn hc
  have h : ∀ n, n < 0x2C → (cfgIndex n = false ∨
      (match regOfAddr (BitVec.ofNat 24 n) with | some (.cfg _) => true | _ => false) = true) := by decide +kernel
  have := (h n hn).resolve_left (by simp [hc])
  split at this <;> simp_all

/-- The CFG indices name the CFG registers. -/
theorem cfgReg_of_index {a : BitVec 24} (h : cfgIndex a.toNat = true) : ∃ r : CfgReg, a = addrOfReg (.cfg r) := by
  have hb : a.toNat < 0x2C := by simp [cfgIndex] at h; omega
  have ha : BitVec.ofNat 24 a.toNat = a := by simp
  have := cfgIndex_named a.toNat hb h
  rw [ha] at this
  split at this
  · rename_i r hr
    exact ⟨r, (regOfAddr_eq_some a _).1 hr⟩
  · exact this.elim

theorem cfgIndex_addrOfReg (r : CfgReg) : cfgIndex (addrOfReg (.cfg r)).toNat = true := by cases r <;> decide

/-- No two registers share an index. -/
theorem addrOfReg_injective {r q : Reg} (h : addrOfReg r = addrOfReg q) : r = q := by
  have := regOfAddr_addrOfReg r
  rw [h, regOfAddr_addrOfReg] at this
  exact (Option.some.inj this).symm

/-- A CFG write leaves every other CFG register as it was (40_host_ops R101). -/
theorem readCfg_storeCfg_other {r q : CfgReg} (h : q ≠ r) (c : Cfg) (d : Reg64) :
    readCfg (storeCfg c r d) q = readCfg c q := by
  cases r <;> cases q <;> first | rfl | exact absurd rfl h

/-- Bits 31:0 of a 64-bit word. -/
theorem readU32_storeU32 (d : Reg64) : readU32 (storeU32 d) = d &&& 0x00000000FFFFFFFF#64 := by
  apply BitVec.eq_of_toNat_eq
  have : (0x00000000FFFFFFFF#64).toNat = 2 ^ 32 - 1 := by decide
  simp only [readU32, storeU32, BitVec.toNat_setWidth, BitVec.toNat_and, this, Nat.and_two_pow_sub_one_eq_mod]
  omega

/-- The two defined bits of FLAGS. -/
theorem flagsBits_store (c : Cfg) (d : Reg64) :
    flagsBits { c with cutoffEn := d.getLsbD 0, lpfEn := d.getLsbD 1 } = d &&& 0x0000000000000003#64 := by
  apply BitVec.eq_of_getLsbD_eq
  intro i hi
  have h3 : (0x0000000000000003#64).getLsbD i = decide (i < 2) := by revert i; decide
  simp only [flagsBits, BitVec.getLsbD_append, BitVec.getLsbD_and, h3]
  match i with
  | 0 => simp
  | 1 => simp
  | i + 2 => simp

/-- A CFG register reads back what was written to it, in its format (10_state R21, R29). -/
theorem readCfg_storeCfg_same (r : CfgReg) (c : Cfg) (d : Reg64) :
    readCfg (storeCfg c r d) r = cfgReadBack (addrOfReg (.cfg r)).toNat d := by
  cases r <;> first
    | rfl
    | exact readU32_storeU32 d
    | exact flagsBits_store c d

/-- A u32 register's own reading stores its value. -/
@[simp] theorem storeU32_readU32 (v : BitVec 32) : storeU32 (readU32 v) = v := by simp [storeU32, readU32]

/-- The reading of FLAGS gives its two bits. -/
theorem flagsBits_bits (c : Cfg) : (flagsBits c).getLsbD 0 = c.cutoffEn ∧ (flagsBits c).getLsbD 1 = c.lpfEn := by
  simp only [flagsBits, BitVec.getLsbD_append]
  exact ⟨by simp, by simp⟩

end Sys2Proof.Machine
end

