-- ==== Sys2Proof/Laws/State.lean ====
section
/-! SUPPORT. Every field after every named update of State: one lemma each, true by rfl. -/

namespace Sys2Proof.Machine

@[simp] theorem setStatus_status (s : State) (v : Status) : (s.setStatus v).status = v := rfl
@[simp] theorem setStatus_ctrl (s : State) (v : Status) : (s.setStatus v).ctrl = s.ctrl := rfl
@[simp] theorem setStatus_count (s : State) (v : Status) : (s.setStatus v).count = s.count := rfl
@[simp] theorem setStatus_maxTicks (s : State) (v : Status) : (s.setStatus v).maxTicks = s.maxTicks := rfl
@[simp] theorem setStatus_outDepth (s : State) (v : Status) : (s.setStatus v).outDepth = s.outDepth := rfl
@[simp] theorem setStatus_cfg (s : State) (v : Status) : (s.setStatus v).cfg = s.cfg := rfl
@[simp] theorem setStatus_work (s : State) (v : Status) : (s.setStatus v).work = s.work := rfl
@[simp] theorem setStatus_run (s : State) (v : Status) : (s.setStatus v).run = s.run := rfl
@[simp] theorem setStatus_nbuf (s : State) (v : Status) : (s.setStatus v).nbuf = s.nbuf := rfl
@[simp] theorem setStatus_fbuf (s : State) (v : Status) : (s.setStatus v).fbuf = s.fbuf := rfl
@[simp] theorem setStatus_pcm (s : State) (v : Status) : (s.setStatus v).pcm = s.pcm := rfl
@[simp] theorem setStatus_norm (s : State) (v : Status) : (s.setStatus v).norm = s.norm := rfl
@[simp] theorem setStatus_bps (s : State) (v : Status) : (s.setStatus v).bps = s.bps := rfl
@[simp] theorem setStatus_response (s : State) (v : Status) : (s.setStatus v).response = s.response := rfl
@[simp] theorem setStatus_bus (s : State) (v : Status) : (s.setStatus v).bus = s.bus := rfl
@[simp] theorem setStatus_turns (s : State) (v : Status) : (s.setStatus v).turns = s.turns := rfl
@[simp] theorem setStatus_drawCount (s : State) (v : Status) : (s.setStatus v).drawCount = s.drawCount := rfl

@[simp] theorem setCtrl_status (s : State) (v : Ctrl) : (s.setCtrl v).status = s.status := rfl
@[simp] theorem setCtrl_ctrl (s : State) (v : Ctrl) : (s.setCtrl v).ctrl = v := rfl
@[simp] theorem setCtrl_count (s : State) (v : Ctrl) : (s.setCtrl v).count = s.count := rfl
@[simp] theorem setCtrl_maxTicks (s : State) (v : Ctrl) : (s.setCtrl v).maxTicks = s.maxTicks := rfl
@[simp] theorem setCtrl_outDepth (s : State) (v : Ctrl) : (s.setCtrl v).outDepth = s.outDepth := rfl
@[simp] theorem setCtrl_cfg (s : State) (v : Ctrl) : (s.setCtrl v).cfg = s.cfg := rfl
@[simp] theorem setCtrl_work (s : State) (v : Ctrl) : (s.setCtrl v).work = s.work := rfl
@[simp] theorem setCtrl_run (s : State) (v : Ctrl) : (s.setCtrl v).run = s.run := rfl
@[simp] theorem setCtrl_nbuf (s : State) (v : Ctrl) : (s.setCtrl v).nbuf = s.nbuf := rfl
@[simp] theorem setCtrl_fbuf (s : State) (v : Ctrl) : (s.setCtrl v).fbuf = s.fbuf := rfl
@[simp] theorem setCtrl_pcm (s : State) (v : Ctrl) : (s.setCtrl v).pcm = s.pcm := rfl
@[simp] theorem setCtrl_norm (s : State) (v : Ctrl) : (s.setCtrl v).norm = s.norm := rfl
@[simp] theorem setCtrl_bps (s : State) (v : Ctrl) : (s.setCtrl v).bps = s.bps := rfl
@[simp] theorem setCtrl_response (s : State) (v : Ctrl) : (s.setCtrl v).response = s.response := rfl
@[simp] theorem setCtrl_bus (s : State) (v : Ctrl) : (s.setCtrl v).bus = s.bus := rfl
@[simp] theorem setCtrl_turns (s : State) (v : Ctrl) : (s.setCtrl v).turns = s.turns := rfl
@[simp] theorem setCtrl_drawCount (s : State) (v : Ctrl) : (s.setCtrl v).drawCount = s.drawCount := rfl

@[simp] theorem setCount_status (s : State) (v : Counters) : (s.setCount v).status = s.status := rfl
@[simp] theorem setCount_ctrl (s : State) (v : Counters) : (s.setCount v).ctrl = s.ctrl := rfl
@[simp] theorem setCount_count (s : State) (v : Counters) : (s.setCount v).count = v := rfl
@[simp] theorem setCount_maxTicks (s : State) (v : Counters) : (s.setCount v).maxTicks = s.maxTicks := rfl
@[simp] theorem setCount_outDepth (s : State) (v : Counters) : (s.setCount v).outDepth = s.outDepth := rfl
@[simp] theorem setCount_cfg (s : State) (v : Counters) : (s.setCount v).cfg = s.cfg := rfl
@[simp] theorem setCount_work (s : State) (v : Counters) : (s.setCount v).work = s.work := rfl
@[simp] theorem setCount_run (s : State) (v : Counters) : (s.setCount v).run = s.run := rfl
@[simp] theorem setCount_nbuf (s : State) (v : Counters) : (s.setCount v).nbuf = s.nbuf := rfl
@[simp] theorem setCount_fbuf (s : State) (v : Counters) : (s.setCount v).fbuf = s.fbuf := rfl
@[simp] theorem setCount_pcm (s : State) (v : Counters) : (s.setCount v).pcm = s.pcm := rfl
@[simp] theorem setCount_norm (s : State) (v : Counters) : (s.setCount v).norm = s.norm := rfl
@[simp] theorem setCount_bps (s : State) (v : Counters) : (s.setCount v).bps = s.bps := rfl
@[simp] theorem setCount_response (s : State) (v : Counters) : (s.setCount v).response = s.response := rfl
@[simp] theorem setCount_bus (s : State) (v : Counters) : (s.setCount v).bus = s.bus := rfl
@[simp] theorem setCount_turns (s : State) (v : Counters) : (s.setCount v).turns = s.turns := rfl
@[simp] theorem setCount_drawCount (s : State) (v : Counters) : (s.setCount v).drawCount = s.drawCount := rfl

@[simp] theorem setCfg_status (s : State) (v : Cfg) : (s.setCfg v).status = s.status := rfl
@[simp] theorem setCfg_ctrl (s : State) (v : Cfg) : (s.setCfg v).ctrl = s.ctrl := rfl
@[simp] theorem setCfg_count (s : State) (v : Cfg) : (s.setCfg v).count = s.count := rfl
@[simp] theorem setCfg_maxTicks (s : State) (v : Cfg) : (s.setCfg v).maxTicks = s.maxTicks := rfl
@[simp] theorem setCfg_outDepth (s : State) (v : Cfg) : (s.setCfg v).outDepth = s.outDepth := rfl
@[simp] theorem setCfg_cfg (s : State) (v : Cfg) : (s.setCfg v).cfg = v := rfl
@[simp] theorem setCfg_work (s : State) (v : Cfg) : (s.setCfg v).work = s.work := rfl
@[simp] theorem setCfg_run (s : State) (v : Cfg) : (s.setCfg v).run = s.run := rfl
@[simp] theorem setCfg_nbuf (s : State) (v : Cfg) : (s.setCfg v).nbuf = s.nbuf := rfl
@[simp] theorem setCfg_fbuf (s : State) (v : Cfg) : (s.setCfg v).fbuf = s.fbuf := rfl
@[simp] theorem setCfg_pcm (s : State) (v : Cfg) : (s.setCfg v).pcm = s.pcm := rfl
@[simp] theorem setCfg_norm (s : State) (v : Cfg) : (s.setCfg v).norm = s.norm := rfl
@[simp] theorem setCfg_bps (s : State) (v : Cfg) : (s.setCfg v).bps = s.bps := rfl
@[simp] theorem setCfg_response (s : State) (v : Cfg) : (s.setCfg v).response = s.response := rfl
@[simp] theorem setCfg_bus (s : State) (v : Cfg) : (s.setCfg v).bus = s.bus := rfl
@[simp] theorem setCfg_turns (s : State) (v : Cfg) : (s.setCfg v).turns = s.turns := rfl
@[simp] theorem setCfg_drawCount (s : State) (v : Cfg) : (s.setCfg v).drawCount = s.drawCount := rfl

@[simp] theorem setWork_status (s : State) (v : Work) : (s.setWork v).status = s.status := rfl
@[simp] theorem setWork_ctrl (s : State) (v : Work) : (s.setWork v).ctrl = s.ctrl := rfl
@[simp] theorem setWork_count (s : State) (v : Work) : (s.setWork v).count = s.count := rfl
@[simp] theorem setWork_maxTicks (s : State) (v : Work) : (s.setWork v).maxTicks = s.maxTicks := rfl
@[simp] theorem setWork_outDepth (s : State) (v : Work) : (s.setWork v).outDepth = s.outDepth := rfl
@[simp] theorem setWork_cfg (s : State) (v : Work) : (s.setWork v).cfg = s.cfg := rfl
@[simp] theorem setWork_work (s : State) (v : Work) : (s.setWork v).work = v := rfl
@[simp] theorem setWork_run (s : State) (v : Work) : (s.setWork v).run = s.run := rfl
@[simp] theorem setWork_nbuf (s : State) (v : Work) : (s.setWork v).nbuf = s.nbuf := rfl
@[simp] theorem setWork_fbuf (s : State) (v : Work) : (s.setWork v).fbuf = s.fbuf := rfl
@[simp] theorem setWork_pcm (s : State) (v : Work) : (s.setWork v).pcm = s.pcm := rfl
@[simp] theorem setWork_norm (s : State) (v : Work) : (s.setWork v).norm = s.norm := rfl
@[simp] theorem setWork_bps (s : State) (v : Work) : (s.setWork v).bps = s.bps := rfl
@[simp] theorem setWork_response (s : State) (v : Work) : (s.setWork v).response = s.response := rfl
@[simp] theorem setWork_bus (s : State) (v : Work) : (s.setWork v).bus = s.bus := rfl
@[simp] theorem setWork_turns (s : State) (v : Work) : (s.setWork v).turns = s.turns := rfl
@[simp] theorem setWork_drawCount (s : State) (v : Work) : (s.setWork v).drawCount = s.drawCount := rfl

@[simp] theorem setRun_status (s : State) (v : RunRegs) : (s.setRun v).status = s.status := rfl
@[simp] theorem setRun_ctrl (s : State) (v : RunRegs) : (s.setRun v).ctrl = s.ctrl := rfl
@[simp] theorem setRun_count (s : State) (v : RunRegs) : (s.setRun v).count = s.count := rfl
@[simp] theorem setRun_maxTicks (s : State) (v : RunRegs) : (s.setRun v).maxTicks = s.maxTicks := rfl
@[simp] theorem setRun_outDepth (s : State) (v : RunRegs) : (s.setRun v).outDepth = s.outDepth := rfl
@[simp] theorem setRun_cfg (s : State) (v : RunRegs) : (s.setRun v).cfg = s.cfg := rfl
@[simp] theorem setRun_work (s : State) (v : RunRegs) : (s.setRun v).work = s.work := rfl
@[simp] theorem setRun_run (s : State) (v : RunRegs) : (s.setRun v).run = v := rfl
@[simp] theorem setRun_nbuf (s : State) (v : RunRegs) : (s.setRun v).nbuf = s.nbuf := rfl
@[simp] theorem setRun_fbuf (s : State) (v : RunRegs) : (s.setRun v).fbuf = s.fbuf := rfl
@[simp] theorem setRun_pcm (s : State) (v : RunRegs) : (s.setRun v).pcm = s.pcm := rfl
@[simp] theorem setRun_norm (s : State) (v : RunRegs) : (s.setRun v).norm = s.norm := rfl
@[simp] theorem setRun_bps (s : State) (v : RunRegs) : (s.setRun v).bps = s.bps := rfl
@[simp] theorem setRun_response (s : State) (v : RunRegs) : (s.setRun v).response = s.response := rfl
@[simp] theorem setRun_bus (s : State) (v : RunRegs) : (s.setRun v).bus = s.bus := rfl
@[simp] theorem setRun_turns (s : State) (v : RunRegs) : (s.setRun v).turns = s.turns := rfl
@[simp] theorem setRun_drawCount (s : State) (v : RunRegs) : (s.setRun v).drawCount = s.drawCount := rfl

@[simp] theorem setFbuf_status (s : State) (v : Vector F64 1024) : (s.setFbuf v).status = s.status := rfl
@[simp] theorem setFbuf_ctrl (s : State) (v : Vector F64 1024) : (s.setFbuf v).ctrl = s.ctrl := rfl
@[simp] theorem setFbuf_count (s : State) (v : Vector F64 1024) : (s.setFbuf v).count = s.count := rfl
@[simp] theorem setFbuf_maxTicks (s : State) (v : Vector F64 1024) : (s.setFbuf v).maxTicks = s.maxTicks := rfl
@[simp] theorem setFbuf_outDepth (s : State) (v : Vector F64 1024) : (s.setFbuf v).outDepth = s.outDepth := rfl
@[simp] theorem setFbuf_cfg (s : State) (v : Vector F64 1024) : (s.setFbuf v).cfg = s.cfg := rfl
@[simp] theorem setFbuf_work (s : State) (v : Vector F64 1024) : (s.setFbuf v).work = s.work := rfl
@[simp] theorem setFbuf_run (s : State) (v : Vector F64 1024) : (s.setFbuf v).run = s.run := rfl
@[simp] theorem setFbuf_nbuf (s : State) (v : Vector F64 1024) : (s.setFbuf v).nbuf = s.nbuf := rfl
@[simp] theorem setFbuf_fbuf (s : State) (v : Vector F64 1024) : (s.setFbuf v).fbuf = v := rfl
@[simp] theorem setFbuf_pcm (s : State) (v : Vector F64 1024) : (s.setFbuf v).pcm = s.pcm := rfl
@[simp] theorem setFbuf_norm (s : State) (v : Vector F64 1024) : (s.setFbuf v).norm = s.norm := rfl
@[simp] theorem setFbuf_bps (s : State) (v : Vector F64 1024) : (s.setFbuf v).bps = s.bps := rfl
@[simp] theorem setFbuf_response (s : State) (v : Vector F64 1024) : (s.setFbuf v).response = s.response := rfl
@[simp] theorem setFbuf_bus (s : State) (v : Vector F64 1024) : (s.setFbuf v).bus = s.bus := rfl
@[simp] theorem setFbuf_turns (s : State) (v : Vector F64 1024) : (s.setFbuf v).turns = s.turns := rfl
@[simp] theorem setFbuf_drawCount (s : State) (v : Vector F64 1024) : (s.setFbuf v).drawCount = s.drawCount := rfl

@[simp] theorem setPcm_status (s : State) (v : List Host.Cell) : (s.setPcm v).status = s.status := rfl
@[simp] theorem setPcm_ctrl (s : State) (v : List Host.Cell) : (s.setPcm v).ctrl = s.ctrl := rfl
@[simp] theorem setPcm_count (s : State) (v : List Host.Cell) : (s.setPcm v).count = s.count := rfl
@[simp] theorem setPcm_maxTicks (s : State) (v : List Host.Cell) : (s.setPcm v).maxTicks = s.maxTicks := rfl
@[simp] theorem setPcm_outDepth (s : State) (v : List Host.Cell) : (s.setPcm v).outDepth = s.outDepth := rfl
@[simp] theorem setPcm_cfg (s : State) (v : List Host.Cell) : (s.setPcm v).cfg = s.cfg := rfl
@[simp] theorem setPcm_work (s : State) (v : List Host.Cell) : (s.setPcm v).work = s.work := rfl
@[simp] theorem setPcm_run (s : State) (v : List Host.Cell) : (s.setPcm v).run = s.run := rfl
@[simp] theorem setPcm_nbuf (s : State) (v : List Host.Cell) : (s.setPcm v).nbuf = s.nbuf := rfl
@[simp] theorem setPcm_fbuf (s : State) (v : List Host.Cell) : (s.setPcm v).fbuf = s.fbuf := rfl
@[simp] theorem setPcm_pcm (s : State) (v : List Host.Cell) : (s.setPcm v).pcm = v := rfl
@[simp] theorem setPcm_norm (s : State) (v : List Host.Cell) : (s.setPcm v).norm = s.norm := rfl
@[simp] theorem setPcm_bps (s : State) (v : List Host.Cell) : (s.setPcm v).bps = s.bps := rfl
@[simp] theorem setPcm_response (s : State) (v : List Host.Cell) : (s.setPcm v).response = s.response := rfl
@[simp] theorem setPcm_bus (s : State) (v : List Host.Cell) : (s.setPcm v).bus = s.bus := rfl
@[simp] theorem setPcm_turns (s : State) (v : List Host.Cell) : (s.setPcm v).turns = s.turns := rfl
@[simp] theorem setPcm_drawCount (s : State) (v : List Host.Cell) : (s.setPcm v).drawCount = s.drawCount := rfl

@[simp] theorem setNorm_status (s : State) (v : List (Nat × F32)) : (s.setNorm v).status = s.status := rfl
@[simp] theorem setNorm_ctrl (s : State) (v : List (Nat × F32)) : (s.setNorm v).ctrl = s.ctrl := rfl
@[simp] theorem setNorm_count (s : State) (v : List (Nat × F32)) : (s.setNorm v).count = s.count := rfl
@[simp] theorem setNorm_maxTicks (s : State) (v : List (Nat × F32)) : (s.setNorm v).maxTicks = s.maxTicks := rfl
@[simp] theorem setNorm_outDepth (s : State) (v : List (Nat × F32)) : (s.setNorm v).outDepth = s.outDepth := rfl
@[simp] theorem setNorm_cfg (s : State) (v : List (Nat × F32)) : (s.setNorm v).cfg = s.cfg := rfl
@[simp] theorem setNorm_work (s : State) (v : List (Nat × F32)) : (s.setNorm v).work = s.work := rfl
@[simp] theorem setNorm_run (s : State) (v : List (Nat × F32)) : (s.setNorm v).run = s.run := rfl
@[simp] theorem setNorm_nbuf (s : State) (v : List (Nat × F32)) : (s.setNorm v).nbuf = s.nbuf := rfl
@[simp] theorem setNorm_fbuf (s : State) (v : List (Nat × F32)) : (s.setNorm v).fbuf = s.fbuf := rfl
@[simp] theorem setNorm_pcm (s : State) (v : List (Nat × F32)) : (s.setNorm v).pcm = s.pcm := rfl
@[simp] theorem setNorm_norm (s : State) (v : List (Nat × F32)) : (s.setNorm v).norm = v := rfl
@[simp] theorem setNorm_bps (s : State) (v : List (Nat × F32)) : (s.setNorm v).bps = s.bps := rfl
@[simp] theorem setNorm_response (s : State) (v : List (Nat × F32)) : (s.setNorm v).response = s.response := rfl
@[simp] theorem setNorm_bus (s : State) (v : List (Nat × F32)) : (s.setNorm v).bus = s.bus := rfl
@[simp] theorem setNorm_turns (s : State) (v : List (Nat × F32)) : (s.setNorm v).turns = s.turns := rfl
@[simp] theorem setNorm_drawCount (s : State) (v : List (Nat × F32)) : (s.setNorm v).drawCount = s.drawCount := rfl

@[simp] theorem setBps_status (s : State) (v : Nat) : (s.setBps v).status = s.status := rfl
@[simp] theorem setBps_ctrl (s : State) (v : Nat) : (s.setBps v).ctrl = s.ctrl := rfl
@[simp] theorem setBps_count (s : State) (v : Nat) : (s.setBps v).count = s.count := rfl
@[simp] theorem setBps_maxTicks (s : State) (v : Nat) : (s.setBps v).maxTicks = s.maxTicks := rfl
@[simp] theorem setBps_outDepth (s : State) (v : Nat) : (s.setBps v).outDepth = s.outDepth := rfl
@[simp] theorem setBps_cfg (s : State) (v : Nat) : (s.setBps v).cfg = s.cfg := rfl
@[simp] theorem setBps_work (s : State) (v : Nat) : (s.setBps v).work = s.work := rfl
@[simp] theorem setBps_run (s : State) (v : Nat) : (s.setBps v).run = s.run := rfl
@[simp] theorem setBps_nbuf (s : State) (v : Nat) : (s.setBps v).nbuf = s.nbuf := rfl
@[simp] theorem setBps_fbuf (s : State) (v : Nat) : (s.setBps v).fbuf = s.fbuf := rfl
@[simp] theorem setBps_pcm (s : State) (v : Nat) : (s.setBps v).pcm = s.pcm := rfl
@[simp] theorem setBps_norm (s : State) (v : Nat) : (s.setBps v).norm = s.norm := rfl
@[simp] theorem setBps_bps (s : State) (v : Nat) : (s.setBps v).bps = v := rfl
@[simp] theorem setBps_response (s : State) (v : Nat) : (s.setBps v).response = s.response := rfl
@[simp] theorem setBps_bus (s : State) (v : Nat) : (s.setBps v).bus = s.bus := rfl
@[simp] theorem setBps_turns (s : State) (v : Nat) : (s.setBps v).turns = s.turns := rfl
@[simp] theorem setBps_drawCount (s : State) (v : Nat) : (s.setBps v).drawCount = s.drawCount := rfl

@[simp] theorem setResponse_status (s : State) (v : Reg64) : (s.setResponse v).status = s.status := rfl
@[simp] theorem setResponse_ctrl (s : State) (v : Reg64) : (s.setResponse v).ctrl = s.ctrl := rfl
@[simp] theorem setResponse_count (s : State) (v : Reg64) : (s.setResponse v).count = s.count := rfl
@[simp] theorem setResponse_maxTicks (s : State) (v : Reg64) : (s.setResponse v).maxTicks = s.maxTicks := rfl
@[simp] theorem setResponse_outDepth (s : State) (v : Reg64) : (s.setResponse v).outDepth = s.outDepth := rfl
@[simp] theorem setResponse_cfg (s : State) (v : Reg64) : (s.setResponse v).cfg = s.cfg := rfl
@[simp] theorem setResponse_work (s : State) (v : Reg64) : (s.setResponse v).work = s.work := rfl
@[simp] theorem setResponse_run (s : State) (v : Reg64) : (s.setResponse v).run = s.run := rfl
@[simp] theorem setResponse_nbuf (s : State) (v : Reg64) : (s.setResponse v).nbuf = s.nbuf := rfl
@[simp] theorem setResponse_fbuf (s : State) (v : Reg64) : (s.setResponse v).fbuf = s.fbuf := rfl
@[simp] theorem setResponse_pcm (s : State) (v : Reg64) : (s.setResponse v).pcm = s.pcm := rfl
@[simp] theorem setResponse_norm (s : State) (v : Reg64) : (s.setResponse v).norm = s.norm := rfl
@[simp] theorem setResponse_bps (s : State) (v : Reg64) : (s.setResponse v).bps = s.bps := rfl
@[simp] theorem setResponse_response (s : State) (v : Reg64) : (s.setResponse v).response = v := rfl
@[simp] theorem setResponse_bus (s : State) (v : Reg64) : (s.setResponse v).bus = s.bus := rfl
@[simp] theorem setResponse_turns (s : State) (v : Reg64) : (s.setResponse v).turns = s.turns := rfl
@[simp] theorem setResponse_drawCount (s : State) (v : Reg64) : (s.setResponse v).drawCount = s.drawCount := rfl

@[simp] theorem setNbuf_status (s : State) (v : Vector F64 32) (n : Nat) : (s.setNbuf v n).status = s.status := rfl
@[simp] theorem setNbuf_ctrl (s : State) (v : Vector F64 32) (n : Nat) : (s.setNbuf v n).ctrl = s.ctrl := rfl
@[simp] theorem setNbuf_count (s : State) (v : Vector F64 32) (n : Nat) : (s.setNbuf v n).count = s.count := rfl
@[simp] theorem setNbuf_maxTicks (s : State) (v : Vector F64 32) (n : Nat) : (s.setNbuf v n).maxTicks = s.maxTicks := rfl
@[simp] theorem setNbuf_outDepth (s : State) (v : Vector F64 32) (n : Nat) : (s.setNbuf v n).outDepth = s.outDepth := rfl
@[simp] theorem setNbuf_cfg (s : State) (v : Vector F64 32) (n : Nat) : (s.setNbuf v n).cfg = s.cfg := rfl
@[simp] theorem setNbuf_work (s : State) (v : Vector F64 32) (n : Nat) : (s.setNbuf v n).work = s.work := rfl
@[simp] theorem setNbuf_run (s : State) (v : Vector F64 32) (n : Nat) : (s.setNbuf v n).run = s.run := rfl
@[simp] theorem setNbuf_nbuf (s : State) (v : Vector F64 32) (n : Nat) : (s.setNbuf v n).nbuf = v := rfl
@[simp] theorem setNbuf_fbuf (s : State) (v : Vector F64 32) (n : Nat) : (s.setNbuf v n).fbuf = s.fbuf := rfl
@[simp] theorem setNbuf_pcm (s : State) (v : Vector F64 32) (n : Nat) : (s.setNbuf v n).pcm = s.pcm := rfl
@[simp] theorem setNbuf_norm (s : State) (v : Vector F64 32) (n : Nat) : (s.setNbuf v n).norm = s.norm := rfl
@[simp] theorem setNbuf_bps (s : State) (v : Vector F64 32) (n : Nat) : (s.setNbuf v n).bps = s.bps := rfl
@[simp] theorem setNbuf_response (s : State) (v : Vector F64 32) (n : Nat) : (s.setNbuf v n).response = s.response := rfl
@[simp] theorem setNbuf_bus (s : State) (v : Vector F64 32) (n : Nat) : (s.setNbuf v n).bus = s.bus := rfl
@[simp] theorem setNbuf_turns (s : State) (v : Vector F64 32) (n : Nat) : (s.setNbuf v n).turns = s.turns := rfl
@[simp] theorem setNbuf_drawCount (s : State) (v : Vector F64 32) (n : Nat) : (s.setNbuf v n).drawCount = n := rfl

@[simp] theorem setInputs_status (s : State) (v : List Word) (w : List Agent) : (s.setInputs v w).status = s.status := rfl
@[simp] theorem setInputs_ctrl (s : State) (v : List Word) (w : List Agent) : (s.setInputs v w).ctrl = s.ctrl := rfl
@[simp] theorem setInputs_count (s : State) (v : List Word) (w : List Agent) : (s.setInputs v w).count = s.count := rfl
@[simp] theorem setInputs_maxTicks (s : State) (v : List Word) (w : List Agent) : (s.setInputs v w).maxTicks = s.maxTicks := rfl
@[simp] theorem setInputs_outDepth (s : State) (v : List Word) (w : List Agent) : (s.setInputs v w).outDepth = s.outDepth := rfl
@[simp] theorem setInputs_cfg (s : State) (v : List Word) (w : List Agent) : (s.setInputs v w).cfg = s.cfg := rfl
@[simp] theorem setInputs_work (s : State) (v : List Word) (w : List Agent) : (s.setInputs v w).work = s.work := rfl
@[simp] theorem setInputs_run (s : State) (v : List Word) (w : List Agent) : (s.setInputs v w).run = s.run := rfl
@[simp] theorem setInputs_nbuf (s : State) (v : List Word) (w : List Agent) : (s.setInputs v w).nbuf = s.nbuf := rfl
@[simp] theorem setInputs_fbuf (s : State) (v : List Word) (w : List Agent) : (s.setInputs v w).fbuf = s.fbuf := rfl
@[simp] theorem setInputs_pcm (s : State) (v : List Word) (w : List Agent) : (s.setInputs v w).pcm = s.pcm := rfl
@[simp] theorem setInputs_norm (s : State) (v : List Word) (w : List Agent) : (s.setInputs v w).norm = s.norm := rfl
@[simp] theorem setInputs_bps (s : State) (v : List Word) (w : List Agent) : (s.setInputs v w).bps = s.bps := rfl
@[simp] theorem setInputs_response (s : State) (v : List Word) (w : List Agent) : (s.setInputs v w).response = s.response := rfl
@[simp] theorem setInputs_bus (s : State) (v : List Word) (w : List Agent) : (s.setInputs v w).bus = v := rfl
@[simp] theorem setInputs_turns (s : State) (v : List Word) (w : List Agent) : (s.setInputs v w).turns = w := rfl
@[simp] theorem setInputs_drawCount (s : State) (v : List Word) (w : List Agent) : (s.setInputs v w).drawCount = s.drawCount := rfl

end Sys2Proof.Machine
end

