-- ==== Sys2Proof/Laws/Driver.lean ====
section
/-! SUPPORT. What the driver's GENERATE and READ_OUT do (47_host_driver R224, R225). -/

namespace Sys2Proof.Machine

/-- REG_RD of STATUS answers the STATUS word. -/
theorem exec_readStatus (s : State) :
    exec (.regRd (addrOfReg .status)) s = .next (s.setResponse s.status.toBits) := by
  simp only [exec, execRegRd, regOfAddr_addrOfReg, readReg]

/-- A reading of STATUS ends the loop exactly where the block is not BUSY. -/
theorem pollDone_toBits (v : Status) : pollDone v.toBits = true ↔ v.state ≠ .busy := by
  have h : v.toBits.extractLsb' 0 2 = v.state.code := BitVec.extractLsb'_append_eq_right ..
  rw [pollDone, h]
  cases v.state <;> decide

/-- One turn of the loop: the ticks before the reading, the reading, and whether it was the last. -/
theorem pollLoop_cons (n : Nat) (gaps : List Nat) (s : State) :
    pollLoop (n :: gaps) s =
      match blockTicks n s with
      | none => none
      | some t =>
        if t.status.state = .busy then pollLoop gaps (t.setResponse t.status.toBits)
        else some (t.setResponse t.status.toBits) := by
  rw [pollLoop]
  cases blockTicks n s with
  | none => rfl
  | some t =>
    simp only [exec_readStatus, setResponse_response, pollDone_toBits]
    by_cases h : t.status.state = .busy
    · simp only [h, ne_eq, not_true_eq_false, if_false, if_true]
    · simp only [h, ne_eq, not_false_eq_true, if_true, if_false]

/-- Where the loop ends the run is over, and the response is the STATUS word. -/
theorem pollLoop_over {gaps : List Nat} {s u : State} (h : pollLoop gaps s = some u) :
    u.status.state ≠ .busy ∧ u.response = u.status.toBits := by
  induction gaps generalizing s with
  | nil => cases h
  | cons n gaps ih =>
    rw [pollLoop_cons] at h
    cases hb : blockTicks n s with
    | none => simp only [hb] at h; cases h
    | some t =>
      simp only [hb] at h
      by_cases hs : t.status.state = .busy
      · rw [if_pos hs] at h; exact ih h
      · rw [if_neg hs] at h; cases h; exact ⟨hs, rfl⟩

/-- After GENERATE the run is over, and the driver holds its STATUS word (47_host_driver R224, its effect). -/
theorem runGenerate_over {gaps : List Nat} {s u : State} (h : runGenerate gaps s = some u) :
    u.status.state ≠ .busy ∧ u.response = u.status.toBits := by
  unfold runGenerate at h
  split at h
  · exact pollLoop_over h
  · cases h
  · cases h

/-! ## READ_OUT -/

/-- Gathering from two lists, one after the other. -/
theorem gather_append {as bs : List Instr} {s t : State} {rs : List Reg64} (h : gather as s = some (rs, t)) :
    gather (as ++ bs) s = (gather bs t).map fun p => (rs ++ p.1, p.2) := by
  induction as generalizing s rs with
  | nil => cases h; simp
  | cons i is ih =>
    simp only [gather, List.cons_append] at h ⊢
    cases hx : exec i s with
    | next u =>
      simp only [hx, Option.map_eq_some_iff] at h ⊢
      obtain ⟨⟨rs', t'⟩, hg, he⟩ := h
      cases he
      simp [ih hg, Function.comp_def]
    | fault f => simp [hx] at h
    | refused r => simp [hx] at h

/-- Reads that each only set the response to what `f` gives are gathered as the list of what `f` gives. -/
theorem gather_reads {α : Type} (instr : α → Instr) (f : α → Reg64) (s : State) (l : List α)
    (h : ∀ a ∈ l, ∀ r, exec (instr a) (s.setResponse r) = .next (s.setResponse (f a))) (r : Reg64) :
    ∃ r', gather (l.map instr) (s.setResponse r) = some (l.map f, s.setResponse r') := by
  induction l generalizing r with
  | nil => exact ⟨r, rfl⟩
  | cons a l ih =>
    obtain ⟨r', hr⟩ := ih (fun b hb => h b (List.mem_cons_of_mem a hb)) (f a)
    exact ⟨r', by simp [gather, h a List.mem_cons_self r, hr]⟩

/-- Pairing the bytes of consecutive addresses combines those of 2i and 2i + 1. -/
theorem pairSamples_range (g : Nat → Byte) (n : Nat) :
    pairSamples ((List.range (2 * n)).map g) =
      (List.range n).map fun i => combine16 (g (2 * i + 1)) (g (2 * i)) := by
  induction n generalizing g with
  | zero => rfl
  | succ n ih =>
    rw [Nat.mul_succ, List.range_succ_eq_map, List.range_succ_eq_map, List.range_succ_eq_map]
    simpa [pairSamples, Function.comp_def, Nat.mul_succ] using ih fun a => g (a + 2)

/-- The PCM sample of position `i`, read from the memory (47_host_driver R225, 20_memory R63). -/
def storedSampleAt (s : State) (bps i : Nat) : Int :=
  if bps = 2 then combine16 (readPcm s (2 * i + 1)) (readPcm s (2 * i)) else (readPcm s i).toNat

/-- READ_OUT of the output a run has stored: the host holds its samples and its mirror, and of the block only the response
word has changed (47_host_driver R225, its effect). -/
theorem runReadOut_eq {n : Nat} {s : State} (hn : n ≤ s.count.outCount) (hb : s.bps = 1 ∨ s.bps = 2)
    (hd : n ≤ 2 ^ 23) :
    ∃ r, runReadOut n s.bps s =
      some ({ pcm := (List.range n).map (storedSampleAt s s.bps), norm := (List.range n).map (readNorm s) },
        s.setResponse r) := by
  have hle : n * s.bps ≤ s.count.outCount * s.bps := Nat.mul_le_mul_right _ hn
  have hsz : n * s.bps ≤ 2 ^ 24 := by rcases hb with h | h <;> rw [h] <;> omega
  obtain ⟨r1, h1⟩ := gather_reads (fun a => .pcmRd (BitVec.ofNat 24 a)) (fun a => (readPcm s a).setWidth 64) s
    (List.range (n * s.bps)) (fun a ha r => by
      have ha := List.mem_range.mp ha
      have hm : (BitVec.ofNat 24 a).toNat = a := by simp; omega
      simp only [exec, execPcmRd, hm, setResponse_count, setResponse_bps, if_neg (show ¬ s.count.outCount * s.bps ≤ a by omega)]
      rfl) s.response
  obtain ⟨r2, h2⟩ := gather_reads (fun i => .normRd (BitVec.ofNat 24 i)) (fun i => (readNorm s i).setWidth 64) s
    (List.range n) (fun i hi r => by
      have hi := List.mem_range.mp hi
      have hm : (BitVec.ofNat 24 i).toNat = i := by simp; omega
      simp only [exec, execNormRd, hm, setResponse_count, if_neg (show ¬ s.count.outCount ≤ i by omega)]
      rfl) r1
  refine ⟨r2, ?_⟩
  have h1 : gather _ s = _ := h1
  rw [runReadOut, readOut, gather_append h1, h2]
  simp only [Option.map_some, heldOutput, Option.some.injEq, Prod.mk.injEq, and_true, HeldOutput.mk.injEq]
  rw [List.take_left' (by simp), List.drop_left' (by simp)]
  constructor
  · rcases hb with h | h
    · simp [h, samplesOf, storedSampleAt, Function.comp_def]
    · have hp : _ = (List.range n).map (storedSampleAt s 2) := pairSamples_range (readPcm s) n
      simpa [h, samplesOf, Function.comp_def, Nat.mul_comm n 2] using hp
  · simp [Function.comp_def]

end Sys2Proof.Machine
end

