-- ==== Sys2Proof/Laws/Encoding.lean ====
section
/-! SUPPORT. The fields of a header, of a data word and of a command, said once: what each field of a built word is, and
that a word is its fields. -/

namespace Sys2Proof

/-- A 32-bit word is its OP, RSV and ADDR fields. -/
theorem fields_of_word (h : Word) : (opField h ++ rsvField h) ++ addrField h = h := by
  apply BitVec.eq_of_getLsbD_eq
  intro i hi
  simp only [opField, rsvField, addrField, BitVec.getLsbD_append, BitVec.getLsbD_extractLsb']
  by_cases h1 : i < 24
  · simp [h1]
  · by_cases h2 : i - 24 < 4
    · simp [h1, h2, show 24 + (i - 24) = i by omega]
    · simp [h1, h2, show i - 24 - 4 < 4 by omega, show 28 + (i - 24 - 4) = i by omega]

/-- H[31:24] is the OP and the RSV field. -/
theorem length_field (h : Word) : h.extractLsb' 24 8 = opField h ++ rsvField h := by
  apply BitVec.eq_of_getLsbD_eq
  intro i hi
  simp only [opField, rsvField, BitVec.getLsbD_append, BitVec.getLsbD_extractLsb']
  by_cases h1 : i < 4
  · simp [h1, hi]
  · simp [h1, hi, show i - 4 < 4 by omega, show 28 + (i - 4) = 24 + i by omega]

theorem length_field_eq (op rsv : BitVec 4) : op ++ rsv = 0x20#8 ↔ op = 2#4 ∧ rsv = 0#4 := by
  revert op rsv; decide

/-- A transaction has three words exactly when its header is a REG_WR's (30_encoding R86). -/
theorem transactionWords_eq (h : Word) :
    transactionWords h = if opField h = 2#4 ∧ rsvField h = 0#4 then 3 else 1 := by
  have := length_field_eq (opField h) (rsvField h)
  unfold transactionWords
  rw [length_field h]
  by_cases hc : opField h = 2#4 ∧ rsvField h = 0#4
  · rw [if_pos (this.2 hc), if_pos hc]
  · rw [if_neg (fun hh => hc (this.1 hh)), if_neg hc]

@[simp] theorem opField_header (op : BitVec 4) (addr : BitVec 24) : opField (header op addr) = op := by
  apply BitVec.eq_of_getLsbD_eq
  intro i hi
  simp only [opField, header, BitVec.getLsbD_append, BitVec.getLsbD_extractLsb', hi, decide_true, Bool.true_and,
    show ¬ 28 + i < 24 by omega, show ¬ 28 + i - 24 < 4 by omega,
    show 28 + i - 24 - 4 = i by omega]
  simp

@[simp] theorem rsvField_header (op : BitVec 4) (addr : BitVec 24) : rsvField (header op addr) = 0#4 := by
  apply BitVec.eq_of_getLsbD_eq
  intro i hi
  simp only [rsvField, header, BitVec.getLsbD_append, BitVec.getLsbD_extractLsb', hi, decide_true, Bool.true_and,
    show ¬ 24 + i < 24 by omega, show 24 + i - 24 < 4 by omega]
  simp

@[simp] theorem addrField_header (op : BitVec 4) (addr : BitVec 24) : addrField (header op addr) = addr := by
  apply BitVec.eq_of_getLsbD_eq
  intro i hi
  simp only [addrField, header, BitVec.getLsbD_append, BitVec.getLsbD_extractLsb', hi, decide_true, Bool.true_and,
    show 0 + i < 24 by omega]
  simp [hi]

/-- The two words of D make up D. -/
theorem dataWords_join (d : Reg64) : d.extractLsb' 32 32 ++ d.extractLsb' 0 32 = d := by
  apply BitVec.eq_of_getLsbD_eq
  intro i hi
  simp only [BitVec.getLsbD_append, BitVec.getLsbD_extractLsb']
  by_cases h1 : i < 32
  · simp [h1]
  · simp [h1, show i - 32 < 32 by omega, show 32 + (i - 32) = i by omega]

/-- The low half of two joined words. -/
theorem join_low (hi lo : Word) : (hi ++ lo).extractLsb' 0 32 = lo := by
  apply BitVec.eq_of_getLsbD_eq
  intro i h
  simp only [BitVec.getLsbD_append, BitVec.getLsbD_extractLsb', h, decide_true, Bool.true_and,
    show 0 + i < 32 by omega]
  simp [h]

/-- The high half of two joined words. -/
theorem join_high (hi lo : Word) : (hi ++ lo).extractLsb' 32 32 = hi := by
  apply BitVec.eq_of_getLsbD_eq
  intro i h
  simp only [BitVec.getLsbD_append, BitVec.getLsbD_extractLsb', h, decide_true, Bool.true_and,
    show ¬ 32 + i < 32 by omega, show 32 + i - 32 = i by omega]
  simp

/-- D[7:0] of a command's data word. -/
@[simp] theorem command_code (hi : BitVec 56) (c : BitVec 8) : (hi ++ c).extractLsb' 0 8 = c := by
  apply BitVec.eq_of_getLsbD_eq
  intro i h
  simp only [BitVec.getLsbD_append, BitVec.getLsbD_extractLsb', h, decide_true, Bool.true_and,
    show 0 + i < 8 by omega]
  simp [h]

/-- D[63:8] of a command's data word. -/
@[simp] theorem command_ignored (hi : BitVec 56) (c : BitVec 8) : (hi ++ c).extractLsb' 8 56 = hi := by
  apply BitVec.eq_of_getLsbD_eq
  intro i h
  simp only [BitVec.getLsbD_append, BitVec.getLsbD_extractLsb', h, decide_true, Bool.true_and,
    show ¬ 8 + i < 8 by omega, show 8 + i - 8 = i by omega]
  simp

/-- A data word is its ignored bits and its code. -/
theorem command_join (d : Reg64) : d.extractLsb' 8 56 ++ d.extractLsb' 0 8 = d := by
  apply BitVec.eq_of_getLsbD_eq
  intro i hi
  simp only [BitVec.getLsbD_append, BitVec.getLsbD_extractLsb']
  by_cases h1 : i < 8
  · simp [h1]
  · simp [h1, show i - 8 < 56 by omega, show 8 + (i - 8) = i by omega]

/-- The words of a REG_WR decode to the write, or to the command it is. -/
theorem decodeBus_regWr (addr : BitVec 24) (d : Reg64) (rest : List Word) :
    decodeBus (header 2#4 addr :: (dataWords d ++ rest)) = .instr (decodeRegWr addr d) rest := by
  simp [decodeBus, dataWords, dataWords_join]

end Sys2Proof
end

