-- ==== Sys2Proof/Laws/Float.lean ====
section
/-! SUPPORT. The small laws of the binary64 operations: what a pattern's parts are, and where NaN comes from. -/

namespace Sys2Proof.Fp

theorem pow2_eq (n : Nat) : pow2 n = 2 ^ n := by
  rw [pow2, ← pow_mul, ← pow_add, Nat.div_add_mod]

theorem infMag_eq : infMag = 9218868437227405312 := by decide

theorem mag_lt (x : F64) : mag x < 2 ^ 63 := Nat.mod_lt _ (by decide)

/-- The parts of a packed pattern. -/
theorem mag_pack {m : Nat} (neg : Bool) (h : m < 2 ^ 63) : mag (pack neg m) = m := by
  cases neg <;> simp [mag, pack] <;> omega

theorem sign_pack {m : Nat} (neg : Bool) (h : m < 2 ^ 63) : sign (pack neg m) = neg := by
  cases neg <;> simp [sign, pack] <;> omega

/-- A pattern is its sign and its magnitude. -/
theorem pack_sign_mag (x : F64) : pack (sign x) (mag x) = x := by
  have hx := x.isLt
  apply BitVec.eq_of_toNat_eq
  by_cases h : 2 ^ 63 ≤ x.toNat
  · simp only [pack, sign, mag, h, decide_true, if_true, BitVec.toNat_ofNat]; omega
  · simp only [pack, sign, mag, h, decide_false, Bool.false_eq_true, if_false, BitVec.toNat_ofNat]; omega

theorem roundMag_le (p inf num den : Nat) : roundMag p inf num den ≤ inf := Nat.min_le_left _ _

/-- A rounded magnitude is never a NaN's. -/
theorem isNaN_round64 (neg : Bool) (num den : Nat) : isNaN (round64 neg num den) = false := by
  have h := roundMag_le 52 infMag num den
  have hlt : roundMag 52 infMag num den < 2 ^ 63 := lt_of_le_of_lt h (by decide)
  simp only [isNaN, round64, mag_pack neg hlt]
  simpa using h

theorem isNaN_pack {m : Nat} (neg : Bool) (h : m ≤ infMag) : isNaN (pack neg m) = false := by
  have hlt : m < 2 ^ 63 := lt_of_le_of_lt h (by decide)
  simp only [isNaN, mag_pack neg hlt]
  simpa using h

/-- The free NaN of an operator is a NaN. -/
@[simp] theorem isNaN_nanResult (op : ArithOp) (a b : F64) : isNaN (nanResult op a b) = true := by
  have h2 : Config.nanChoice op a b / 2 % (2 ^ 52 - 1) < 2 ^ 52 - 1 := Nat.mod_lt _ (by decide)
  have h1 : Config.nanChoice op a b % 2 < 2 := Nat.mod_lt _ (by decide)
  simp only [isNaN, mag, nanResult, infMag_eq, BitVec.toNat_ofNat, decide_eq_true_eq]
  generalize Config.nanChoice op a b % 2 = s at *
  generalize Config.nanChoice op a b / 2 % (2 ^ 52 - 1) = f at *
  omega

theorem isNaN_add_left {a : F64} (b : F64) (h : isNaN a = true) : isNaN (add a b) = true := by
  rw [add, if_pos (by simp [h])]; exact isNaN_nanResult _ _ _

theorem isNaN_add_right (a : F64) {b : F64} (h : isNaN b = true) : isNaN (add a b) = true := by
  rw [add, if_pos (by simp [h])]; exact isNaN_nanResult _ _ _

theorem isNaN_mul_left {a : F64} (b : F64) (h : isNaN a = true) : isNaN (mul a b) = true := by
  rw [mul, if_pos (by simp [h])]; exact isNaN_nanResult _ _ _

theorem isNaN_mul_right (a : F64) {b : F64} (h : isNaN b = true) : isNaN (mul a b) = true := by
  rw [mul, if_pos (by simp [h])]; exact isNaN_nanResult _ _ _

theorem isNaN_sub_left {a : F64} (b : F64) (h : isNaN a = true) : isNaN (sub a b) = true := by
  rw [sub, if_pos (by simp [h])]; exact isNaN_nanResult _ _ _

theorem isNaN_div_left {a : F64} (b : F64) (h : isNaN a = true) : isNaN (div a b) = true := by
  rw [div, if_pos (by simp [h])]; exact isNaN_nanResult _ _ _

/-- Comparisons with a NaN are false, but for `!=` (00_scope R14). -/
theorem lt_nan_left {a : F64} (b : F64) (h : isNaN a = true) : lt a b = false := by simp [lt, h]
theorem lt_nan_right (a : F64) {b : F64} (h : isNaN b = true) : lt a b = false := by simp [lt, h]
theorem le_nan_left {a : F64} (b : F64) (h : isNaN a = true) : le a b = false := by simp [le, h]
theorem le_nan_right (a : F64) {b : F64} (h : isNaN b = true) : le a b = false := by simp [le, h]
theorem ne_nan_left {a : F64} (b : F64) (h : isNaN a = true) : ne a b = true := by simp [ne, eq, h]

/-- What floor gives of a NaN and of nothing else. -/
theorem floor_eq_nan (x : F64) : floor x = .nan ↔ isNaN x = true := by
  unfold floor
  cases h : isNaN x <;> simp
  split
  · split <;> simp
  · simp

/-- Rounding an integer quotient goes to one of its two neighbours. -/
theorem roundNearestEven_bounds (num den : Nat) :
    num / den ≤ roundNearestEven num den ∧ roundNearestEven num den ≤ num / den + 1 := by
  unfold roundNearestEven
  dsimp only
  split
  · omega
  · split
    · omega
    · omega

end Sys2Proof.Fp
end

