-- ==== Sys2Proof/Laws/Ops.lean ====
section
/-! SUPPORT. What each shared operation does, said once: a state equation, and the fields it writes. -/

namespace Sys2Proof.Machine

/-! ## Sticky bits -/

theorem stickyBusy_eq (s : State) :
    stickyBusy s = { s with status := { s.status with errBusy := true } } := rfl
theorem stickyCmd_eq (s : State) :
    stickyCmd s = { s with status := { s.status with errCmd := true } } := rfl
theorem stickyCfg_eq (s : State) :
    stickyCfg s = { s with status := { s.status with errCfg := true } } := rfl
theorem stickyAddr_eq (s : State) :
    stickyAddr s = { s with status := { s.status with errAddr := true } } := rfl

@[simp] theorem busy_eq_true (s : State) : s.busy = true ↔ s.status.state = .busy := by
  simp [State.busy]

@[simp] theorem busy_eq_false (s : State) : s.busy = false ↔ s.status.state ≠ .busy := by
  simp [State.busy]

/-! ## The noise source -/

theorem inNoiseRange_zero : inNoiseRange Fp.zero = true := by decide

/-- Every draw lies in [-1, 1). -/
theorem inNoiseRange_draw (n : Nat) : inNoiseRange (draw n) = true := by
  unfold draw
  split
  · assumption
  · exact inNoiseRange_zero

/-- The table holds the 32 draws in index order. -/
theorem drawTable_getD {n i : Nat} (h : i < 32) (d : F64) : (drawTable n).getD i d = draw (n + i) := by
  simp [drawTable, Vector.getD, Array.getD, h]

theorem refillNoise_eq (s : State) :
    refillNoise s = { s with nbuf := drawTable s.drawCount, drawCount := s.drawCount + 32 } := rfl

/-! ## Starting and ending a run -/

theorem Cfg.legal_iff (c : Cfg) :
    c.legal = true ↔
      1 ≤ c.sampleRate.toNat ∧ c.sampleRate.toNat ≤ 44100 ∧ (c.sampleSize = 8#32 ∨ c.sampleSize = 16#32) := by
  simp [Cfg.legal, and_assoc]

theorem Cfg.summands_pos {c : Cfg} (h : c.legal = true) : 1 ≤ c.summands := by
  obtain ⟨h1, h2, -⟩ := (Cfg.legal_iff c).1 h
  exact (Nat.one_le_div_iff (by omega)).2 h2

theorem Cfg.summands_le (c : Cfg) : c.summands ≤ 44100 := Nat.div_le_self _ _

theorem Cfg.bps_legal {c : Cfg} (h : c.legal = true) : c.bps = 1 ∨ c.bps = 2 := by
  obtain ⟨-, -, h | h⟩ := (Cfg.legal_iff c).1 h <;> simp [Cfg.bps, h]

/-- InitRun writes these fields and no other. -/
theorem initRun_eq (s : State) :
    initRun s =
      { s with
        nbuf := drawTable s.drawCount
        drawCount := s.drawCount + 32
        work := Work.load s.cfg
        run := RunRegs.zero
        fbuf := clearedFbuf
        count := Counters.zero
        bps := s.cfg.bps
        status :=
          { s.status with
            state := .busy, evt := false, endReason := .none, faultCode := .none, nanSeen := false } } := rfl

/-- end(reason) writes three fields of STATUS and nothing else. -/
theorem endRun_eq (r : EndReason) (s : State) :
    endRun r s = { s with status := { s.status with endReason := r, state := .done, evt := true } } := rfl

/-- A fault leaves the state before the tick but for its record. -/
theorem raiseFault_eq (c : FaultCode) (s : State) :
    raiseFault c s =
      { s with
        count := { s.count with faultTick := s.count.tickCount, outCount := 0, clipCount := 0 }
        status := { s.status with faultCode := c, state := .fault, evt := true } } := rfl

/-- RESET writes these four groups and nothing else. -/
theorem softReset_eq (s : State) :
    softReset s =
      { s with status := Status.zero, count := Counters.zero, work := Work.zero, run := RunRegs.zero } := rfl

end Sys2Proof.Machine
end

