-- ==== Sys2Proof/Laws/HostOps.lean ====
section
/-! SUPPORT. Everything a host transaction can do, said once. -/

namespace Sys2Proof.Machine

/-- `v` is `u` but for the sticky bits and EVT, which can only have been cleared. -/
structure SoftStatus (u v : Status) : Prop where
  state : v.state = u.state
  endReason : v.endReason = u.endReason
  faultCode : v.faultCode = u.faultCode
  nanSeen : v.nanSeen = u.nanSeen
  evt : v.evt = true → u.evt = true

theorem SoftStatus.refl (u : Status) : SoftStatus u u := ⟨rfl, rfl, rfl, rfl, id⟩

/-- Everything a host transaction can come to. -/
inductive HostCase (s t : State) : Prop where
  /-- An answer: sticky bits, W1C bits and the response. -/
  | answered (v : Status) (r : Reg64) (hv : SoftStatus s.status v) (ht : t = (s.setStatus v).setResponse r)
  /-- A write of CTRL. -/
  | ctrl (c : Ctrl) (h : s.status.state ≠ .busy) (ht : t = s.setCtrl c)
  /-- A write of a CFG register. -/
  | cfg (c : Cfg) (h : s.status.state ≠ .busy) (ht : t = s.setCfg c)
  /-- An accepted START. -/
  | started (h : s.status.state ≠ .busy) (hl : s.cfg.legal = true) (ht : t = initRun s)
  /-- An accepted RESET. -/
  | reset (h : s.status.state ≠ .busy) (ht : t = softReset s)

theorem HostCase.self (s : State) : HostCase s s := .answered s.status s.response (.refl _) rfl

theorem HostCase.status (s : State) (v : Status) (h : SoftStatus s.status v) : HostCase s (s.setStatus v) :=
  .answered v s.response h rfl

theorem HostCase.stickyBusy (s : State) : HostCase s (stickyBusy s) := .status s _ ⟨rfl, rfl, rfl, rfl, id⟩
theorem HostCase.stickyCmd (s : State) : HostCase s (stickyCmd s) := .status s _ ⟨rfl, rfl, rfl, rfl, id⟩
theorem HostCase.stickyCfg (s : State) : HostCase s (stickyCfg s) := .status s _ ⟨rfl, rfl, rfl, rfl, id⟩
theorem HostCase.stickyAddr (s : State) : HostCase s (stickyAddr s) := .status s _ ⟨rfl, rfl, rfl, rfl, id⟩

theorem HostCase.response (s : State) (r : Reg64) : HostCase s (s.setResponse r) := .answered s.status r (.refl _) rfl

theorem HostCase.refused (s : State) (r : Reg64) : HostCase s ((Machine.stickyAddr s).setResponse r) :=
  .answered { s.status with errAddr := true } r ⟨rfl, rfl, rfl, rfl, id⟩ rfl

theorem startCommand_case (s : State) : HostCase s (startCommand s) := by
  unfold startCommand
  split
  · exact .stickyBusy s
  · rename_i hb
    split
    · exact .started (by simpa [State.busy] using hb) (by assumption) rfl
    · exact .stickyCfg s

theorem resetCommand_case (s : State) : HostCase s (resetCommand s) := by
  unfold resetCommand
  split
  · exact .stickyBusy s
  · rename_i hb
    exact .reset (by simpa [State.busy] using hb) rfl

theorem command_case (c : BitVec 8) (s : State) : HostCase s (command c s) := by
  unfold command
  split
  · exact .self s
  · exact startCommand_case s
  · exact resetCommand_case s
  · exact .stickyCmd s

theorem writeReg_case (r : Reg) (d : Reg64) (s : State) : HostCase s (writeReg r d s) := by
  cases r with
  | cmd => exact command_case _ s
  | status =>
    refine .status s _ ⟨rfl, rfl, rfl, rfl, ?_⟩
    intro h
    simp only [Status.writeOneToClear, Bool.and_eq_true] at h
    exact h.1
  | ctrl =>
    simp only [writeReg, guardedWrite]
    split
    · exact .stickyBusy s
    · rename_i hb; exact .ctrl _ (by simpa [State.busy] using hb) rfl
  | ro r => exact .stickyAddr s
  | cfg r =>
    simp only [writeReg, guardedWrite]
    split
    · exact .stickyBusy s
    · rename_i hb; exact .cfg _ (by simpa [State.busy] using hb) rfl

/-- The inversion of the host's instructions: each completes, in one of these ways. -/
theorem exec_bus_cases (i : Instr) (h : i.port = .bus) (s : State) : ∃ t, exec i s = .next t ∧ HostCase s t := by
  cases i with
  | regRd a =>
    simp only [exec, execRegRd]
    cases regOfAddr a with
    | none => exact ⟨_, rfl, .refused s _⟩
    | some r => exact ⟨_, rfl, .response s _⟩
  | regWr a d =>
    simp only [exec, execRegWr]
    cases regOfAddr a with
    | none => exact ⟨_, rfl, .stickyAddr s⟩
    | some r => exact ⟨_, rfl, writeReg_case r d s⟩
  | pcmRd a =>
    simp only [exec, execPcmRd]
    split
    · exact ⟨_, rfl, .refused s _⟩
    · exact ⟨_, rfl, .response s _⟩
  | normRd a =>
    simp only [exec, execNormRd]
    split
    · exact ⟨_, rfl, .refused s _⟩
    · exact ⟨_, rfl, .response s _⟩
  | reservedOp w => exact ⟨_, rfl, .refused s _⟩
  | cmdNop hi => exact ⟨_, rfl, .self s⟩
  | cmdStart hi => exact ⟨_, rfl, startCommand_case s⟩
  | cmdReset hi => exact ⟨_, rfl, resetCommand_case s⟩
  | cmdReserved hi code => exact ⟨_, rfl, .stickyCmd s⟩
  | waveSquare => simp [Instr.port] at h
  | waveSaw => simp [Instr.port] at h
  | waveSine => simp [Instr.port] at h
  | waveNoise => simp [Instr.port] at h
  | waveIllegal code => simp [Instr.port] at h

end Sys2Proof.Machine
end

