-- ==== Sys2Proof/Laws/Memory.lean ====
section
/-! SUPPORT. The laws of the output memories: read after write, every other address unchanged, and the canonical form
that every memory operation keeps. -/

namespace Sys2Proof.Machine

variable {α : Type}

theorem cellRead_cellWrite_same (x : Nat) (v : α) (m : List (Nat × α)) :
    cellRead (cellWrite x v m) x = some v := by
  induction m with
  | nil => simp [cellWrite, cellRead]
  | cons c t ih =>
    obtain ⟨a, w⟩ := c
    simp only [cellWrite]
    split
    · simp [cellRead]
    · split
      · simp [cellRead]
      · simp_all [cellRead]

theorem cellRead_cellWrite_other {x y : Nat} (h : y ≠ x) (v : α) (m : List (Nat × α)) :
    cellRead (cellWrite x v m) y = cellRead m y := by
  induction m with
  | nil => simp [cellWrite, cellRead, h]
  | cons c t ih =>
    obtain ⟨a, w⟩ := c
    simp only [cellWrite]
    split
    · simp [cellRead, h]
    · split
      · subst_vars; simp [cellRead, h]
      · simp only [cellRead, ih]

theorem cellWrite_isSome {x : Nat} (v : α) {m : List (Nat × α)} {y : Nat}
    (h : y = x ∨ (cellRead m y).isSome) : (cellRead (cellWrite x v m) y).isSome := by
  by_cases hy : y = x
  · subst hy; simp [cellRead_cellWrite_same]
  · rw [cellRead_cellWrite_other hy]; exact h.resolve_left hy

theorem cellWrite_above {lo x : Nat} (hx : lo ≤ x) (v : α) {m : List (Nat × α)}
    (h : cellsAbove lo m = true) : cellsAbove lo (cellWrite x v m) = true := by
  induction m generalizing lo with
  | nil => simp [cellWrite, cellsAbove, hx]
  | cons c t ih =>
    obtain ⟨a, w⟩ := c
    simp only [cellsAbove, Bool.and_eq_true, decide_eq_true_eq] at h
    simp only [cellWrite]
    split
    · simp only [cellsAbove, Bool.and_eq_true, decide_eq_true_eq]; exact ⟨hx, by omega, h.2⟩
    · split
      · subst_vars; simp only [cellsAbove, Bool.and_eq_true, decide_eq_true_eq]; exact ⟨hx, h.2⟩
      · simp only [cellsAbove, Bool.and_eq_true, decide_eq_true_eq]
        exact ⟨h.1, ih (by omega) h.2⟩

/-- A write keeps the canonical form. -/
theorem cellWrite_wf (x : Nat) (v : α) {m : List (Nat × α)} (h : cellsWf m = true) :
    cellsWf (cellWrite x v m) = true := cellWrite_above (Nat.zero_le x) v h

/-- A write below `n` keeps the contents below `n`. -/
theorem cellWrite_below {n x : Nat} (hx : x < n) (v : α) {m : List (Nat × α)}
    (h : cellsBelow n m = true) : cellsBelow n (cellWrite x v m) = true := by
  induction m with
  | nil => simp [cellWrite, cellsBelow, hx]
  | cons c t ih =>
    obtain ⟨a, w⟩ := c
    simp only [cellsBelow, List.all_cons, Bool.and_eq_true, decide_eq_true_eq] at h ih ⊢
    simp only [cellWrite]
    split
    · simp [hx, h.1]; simpa using h.2
    · split
      · simp [hx]; simpa using h.2
      · simp only [List.all_cons, Bool.and_eq_true, decide_eq_true_eq]; exact ⟨h.1, ih h.2⟩

/-- The bytes of sample `n` lie inside PCM when entry `n` lies inside NORM (20_memory R60). -/
theorem sampleAddr_lt {c : Cfg} {n d : Nat} (h : n < d) :
    sampleAddr c n < 2 * d ∧ (c.sampleSize ≠ 8#32 → sampleAddr c n + 1 < 2 * d) := by
  unfold sampleAddr
  split
  · exact ⟨by omega, fun h' => absurd (by assumption) h'⟩
  · exact ⟨by omega, fun _ => by omega⟩

/-- The store of a sample keeps the canonical form of PCM. -/
theorem storedSample_wf (c : Cfg) (n : Nat) (q : Int) {m : List Host.Cell} (h : cellsWf m = true) :
    cellsWf (storedSample c n q m) = true := by
  unfold storedSample
  split
  · exact cellWrite_wf _ _ h
  · exact cellWrite_wf _ _ (cellWrite_wf _ _ h)

/-- The store of a sample stays inside PCM. -/
theorem storedSample_below {c : Cfg} {n d : Nat} (hn : n < d) (q : Int) {m : List Host.Cell}
    (h : cellsBelow (2 * d) m = true) : cellsBelow (2 * d) (storedSample c n q m) = true := by
  have ha := sampleAddr_lt (c := c) hn
  unfold storedSample
  split
  · exact cellWrite_below ha.1 _ h
  · exact cellWrite_below (ha.2 (by assumption)) _ (cellWrite_below ha.1 _ h)

/-- A byte outside the sample reads as before. -/
theorem cellRead_storedSample_other {c : Cfg} {n a : Nat} (q : Int) (m : List Host.Cell)
    (h : a < sampleAddr c n ∨ sampleAddr c n + sampleBytes c ≤ a) :
    cellRead (storedSample c n q m) a = cellRead m a := by
  unfold storedSample
  unfold sampleBytes at h
  split
  · rw [if_pos (by assumption)] at h
    exact cellRead_cellWrite_other (by omega) _ _
  · rw [if_neg (by assumption)] at h
    rw [cellRead_cellWrite_other (by omega), cellRead_cellWrite_other (by omega)]

/-- Reading a byte after a sample was stored: a stored byte if it was one before or is one of the sample's. -/
theorem storedSample_isSome {c : Cfg} {n a : Nat} (q : Int) {m : List Host.Cell}
    (h : (sampleAddr c n ≤ a ∧ a < sampleAddr c n + sampleBytes c) ∨ (cellRead m a).isSome) :
    (cellRead (storedSample c n q m) a).isSome := by
  unfold storedSample
  unfold sampleBytes at h
  split
  · rw [if_pos (by assumption)] at h
    exact cellWrite_isSome _ (h.imp_left fun h => by omega)
  · rw [if_neg (by assumption)] at h
    apply cellWrite_isSome
    by_cases ha : a = sampleAddr c n + 1
    · exact .inl ha
    · exact .inr (cellWrite_isSome _ (h.imp_left fun h => by omega))

/-- The store of a whole sample keeps the canonical form of both memories. -/
theorem stores_wf {s : State} {n : Nat} (hn : n < s.outDepth) (q : Int) (w : F32)
    (h : Memory.wf s = true) : Memory.wf (storePcm n q (storeNorm n w s)) = true := by
  simp only [Memory.wf, Bool.and_eq_true] at h ⊢
  obtain ⟨⟨⟨h1, h2⟩, h3⟩, h4⟩ := h
  exact ⟨⟨⟨storedSample_wf _ n q h1, storedSample_below hn q h2⟩, cellWrite_wf n w h3⟩,
    cellWrite_below hn w h4⟩

/-- Reset lists nothing, which is canonical. -/
theorem reset_memory_wf : Memory.wf State.reset = true := rfl

end Sys2Proof.Machine
end

