-- ==== Sys2Proof/Laws/PerInstr.lean ====
section
/-! SUPPORT. Statements for all instructions, one lemma per constructor. -/

namespace Sys2Proof.Laws.EncodedLength

/-- A well-formed instruction is as long as its first word says: one or three bus words by H[31:24], one word in WAVE_TYPE
(30_encoding R85, R86). -/
def Statement (i : Instr) : Prop :=
  i.wellFormed = true → ∃ h t, encode i = h :: t ∧
    (encode i).length = match i.port with
      | .bus => transactionWords h
      | .waveType => 1

theorem regRd (addr : BitVec 24) : Statement (.regRd addr) :=
  fun _ => ⟨_, _, rfl, by simp [encode, Instr.port, transactionWords_eq]⟩

theorem regWr (addr : BitVec 24) (d : Reg64) : Statement (.regWr addr d) :=
  fun _ => ⟨_, _, rfl, by simp [encode, Instr.port, transactionWords_eq, dataWords]⟩

theorem pcmRd (addr : BitVec 24) : Statement (.pcmRd addr) :=
  fun _ => ⟨_, _, rfl, by simp [encode, Instr.port, transactionWords_eq]⟩

theorem normRd (addr : BitVec 24) : Statement (.normRd addr) :=
  fun _ => ⟨_, _, rfl, by simp [encode, Instr.port, transactionWords_eq]⟩

theorem reservedOp (h : Word) : Statement (.reservedOp h) := by
  intro hw
  refine ⟨_, _, rfl, ?_⟩
  have : ¬ (opField h = 2#4 ∧ rsvField h = 0#4) := by
    rintro ⟨h1, h2⟩
    simp only [opField, rsvField] at h1 h2
    simp [Instr.wellFormed, reservedHeader, h1, h2] at hw
  simp [encode, Instr.port, transactionWords_eq, this]

theorem cmdNop (hi : BitVec 56) : Statement (.cmdNop hi) :=
  fun _ => ⟨_, _, rfl, by simp [encode, commandWords, Instr.port, transactionWords_eq, dataWords]⟩

theorem cmdStart (hi : BitVec 56) : Statement (.cmdStart hi) :=
  fun _ => ⟨_, _, rfl, by simp [encode, commandWords, Instr.port, transactionWords_eq, dataWords]⟩

theorem cmdReset (hi : BitVec 56) : Statement (.cmdReset hi) :=
  fun _ => ⟨_, _, rfl, by simp [encode, commandWords, Instr.port, transactionWords_eq, dataWords]⟩

theorem cmdReserved (hi : BitVec 56) (code : BitVec 8) : Statement (.cmdReserved hi code) :=
  fun _ => ⟨_, _, rfl, by simp [encode, commandWords, Instr.port, transactionWords_eq, dataWords]⟩

theorem waveSquare : Statement .waveSquare := fun _ => ⟨_, _, rfl, rfl⟩

theorem waveSaw : Statement .waveSaw := fun _ => ⟨_, _, rfl, rfl⟩

theorem waveSine : Statement .waveSine := fun _ => ⟨_, _, rfl, rfl⟩

theorem waveNoise : Statement .waveNoise := fun _ => ⟨_, _, rfl, rfl⟩

theorem waveIllegal (code : Word) : Statement (.waveIllegal code) := fun _ => ⟨_, _, rfl, rfl⟩

end Sys2Proof.Laws.EncodedLength
end

