-- ==== Sys2Proof/Laws/Tick.lean ====
section
/-! SUPPORT. What each operation of a tick can do, said once, and what a whole tick can come to. -/

namespace Sys2Proof.Machine

/-! ## Frames: a state equation for every operation of a tick -/

/-- `t` is `s` but for the working and the run-state registers. -/
def VoiceOnly (s t : State) : Prop := ∃ w r, t = (s.setWork w).setRun r

/-- `t` is `s` but for the working and run-state registers and the two internal buffers. -/
def SoundOnly (s t : State) : Prop :=
  ∃ w r f n d, t = (((s.setWork w).setRun r).setFbuf f).setNbuf n d

theorem VoiceOnly.refl (s : State) : VoiceOnly s s := ⟨s.work, s.run, rfl⟩

theorem VoiceOnly.trans {s t u : State} (h1 : VoiceOnly s t) (h2 : VoiceOnly t u) : VoiceOnly s u := by
  obtain ⟨w, r, rfl⟩ := h1
  obtain ⟨w', r', rfl⟩ := h2
  exact ⟨w', r', rfl⟩

theorem VoiceOnly.ofWork (s : State) (w : Work) : VoiceOnly s (s.setWork w) := ⟨w, s.run, rfl⟩

theorem VoiceOnly.ofRun (s : State) (r : RunRegs) : VoiceOnly s (s.setRun r) := ⟨s.work, r, rfl⟩

theorem VoiceOnly.ofBoth (s : State) (w : Work) (r : RunRegs) : VoiceOnly s ((s.setWork w).setRun r) := ⟨w, r, rfl⟩

theorem SoundOnly.refl (s : State) : SoundOnly s s := ⟨s.work, s.run, s.fbuf, s.nbuf, s.drawCount, rfl⟩

theorem SoundOnly.trans {s t u : State} (h1 : SoundOnly s t) (h2 : SoundOnly t u) : SoundOnly s u := by
  obtain ⟨w, r, f, n, d, rfl⟩ := h1
  obtain ⟨w', r', f', n', d', rfl⟩ := h2
  exact ⟨w', r', f', n', d', rfl⟩

theorem VoiceOnly.sound {s t : State} (h : VoiceOnly s t) : SoundOnly s t := by
  obtain ⟨w, r, rfl⟩ := h
  exact ⟨w, r, s.fbuf, s.nbuf, s.drawCount, rfl⟩

theorem retrigger_voice (s : State) : VoiceOnly s (retrigger s) := by
  unfold retrigger
  split
  · exact .refl s
  · split
    · exact .ofBoth s _ _
    · exact .ofRun s _

theorem arpeggio_voice (s : State) : VoiceOnly s (arpeggio s) := by
  unfold arpeggio
  split
  · exact .ofWork s _
  · exact .refl s

theorem freqSlide_voice (s : State) : VoiceOnly s (freqSlide s) := .ofWork s _

theorem periodClamp_voice (s : State) : VoiceOnly s (periodClamp s) := by
  unfold periodClamp
  split
  · exact .ofWork s _
  · exact .refl s

theorem vibratoAdvance_voice (s : State) : VoiceOnly s (vibratoAdvance s) := by
  unfold vibratoAdvance
  split
  · exact .ofRun s _
  · exact .refl s

theorem dutySlide_voice (s : State) : VoiceOnly s (dutySlide s) := .ofWork s _

theorem envAdvance_voice (s : State) : VoiceOnly s (envAdvance s) := by
  unfold envAdvance
  split <;> exact .ofRun s _

theorem flangerSlide_voice (s : State) : VoiceOnly s (flangerSlide s) := .ofWork s _

theorem hpfSweep_voice (s : State) : VoiceOnly s (hpfSweep s) := by
  unfold hpfSweep
  split
  · exact .ofWork s _
  · exact .refl s

theorem lpfSweep_voice (s : State) : VoiceOnly s (lpfSweep s) := .ofWork s _

theorem lowpass_voice (x : F64) (s : State) : VoiceOnly s (lowpass x s) := .ofRun s _

theorem highpass_voice (pp : F64) (s : State) : VoiceOnly s (highpass pp s) := .ofRun s _

theorem pitched_voice (s : State) : VoiceOnly s (pitched s) :=
  ((retrigger_voice s).trans (arpeggio_voice _)).trans (freqSlide_voice _)

theorem modulated_voice (s : State) : VoiceOnly s (modulated s) :=
  ((pitched_voice s).trans (periodClamp_voice _)).trans (vibratoAdvance_voice _)

theorem filtered_voice (x : F64) (s : State) : VoiceOnly s (filtered x s) :=
  ((lpfSweep_voice s).trans (lowpass_voice x _)).trans (highpass_voice _ _)

theorem SoundOnly.ofNoise (s : State) : SoundOnly s (refillNoise s) :=
  ⟨s.work, s.run, s.fbuf, drawTable s.drawCount, s.drawCount + 32, rfl⟩

theorem SoundOnly.ofRing (s : State) (f : Vector F64 1024) : SoundOnly s (s.setFbuf f) :=
  ⟨s.work, s.run, f, s.nbuf, s.drawCount, rfl⟩

theorem phaseAdvance_sound (sh : Shape) (iper : Nat) (s : State) : SoundOnly s (phaseAdvance sh iper s) := by
  unfold phaseAdvance
  split
  · exact (VoiceOnly.ofRun s _).sound
  · dsimp only
    split
    · exact (VoiceOnly.ofRun s _).sound.trans (.ofNoise _)
    · exact (VoiceOnly.ofRun s _).sound

theorem flangerWrite_sound (x : F64) (s : State) : SoundOnly s (flangerWrite x s) :=
  (SoundOnly.ofRing s _).trans (VoiceOnly.ofRun _ _).sound

/-- The fields a change of the voice leaves alone. -/
theorem VoiceOnly.fields {s t : State} (h : VoiceOnly s t) :
    t.status = s.status ∧ t.ctrl = s.ctrl ∧ t.count = s.count ∧ t.maxTicks = s.maxTicks ∧
      t.outDepth = s.outDepth ∧ t.cfg = s.cfg ∧ t.nbuf = s.nbuf ∧ t.fbuf = s.fbuf ∧ t.pcm = s.pcm ∧
      t.norm = s.norm ∧ t.bps = s.bps ∧ t.response = s.response ∧ t.bus = s.bus ∧ t.turns = s.turns ∧
      t.drawCount = s.drawCount := by
  obtain ⟨w, r, rfl⟩ := h
  simp

/-- The fields a change of the sound leaves alone. -/
theorem SoundOnly.fields {s t : State} (h : SoundOnly s t) :
    t.status = s.status ∧ t.ctrl = s.ctrl ∧ t.count = s.count ∧ t.maxTicks = s.maxTicks ∧
      t.outDepth = s.outDepth ∧ t.cfg = s.cfg ∧ t.pcm = s.pcm ∧
      t.norm = s.norm ∧ t.bps = s.bps ∧ t.response = s.response ∧ t.bus = s.bus ∧ t.turns = s.turns := by
  obtain ⟨w, r, f, n, d, rfl⟩ := h
  simp

/-! ## The part of a tick that runs once -/

theorem enveloped_voice (s : State) : VoiceOnly s (enveloped s) :=
  ((modulated_voice s).trans (dutySlide_voice _)).trans (envAdvance_voice _)

/-- Everything steps 2 to 12 can come to. -/
theorem front_cases (s : State) :
    (periodStop (pitched s) = true ∧ front s = .ended .freqCutoff (periodClamp (pitched s))) ∨
    (periodStop (pitched s) = false ∧ intPeriod (vibratoPeriod (modulated s)) = none ∧
      front s = .raised .numRange) ∨
    (∃ k, periodStop (pitched s) = false ∧ intPeriod (vibratoPeriod (modulated s)) = some k ∧
      envStop (dutySlide (modulated s)) = true ∧ front s = .ended .envEnd (enveloped s)) ∨
    (∃ k, periodStop (pitched s) = false ∧ intPeriod (vibratoPeriod (modulated s)) = some k ∧
      envStop (dutySlide (modulated s)) = false ∧
      flangerShift (flangerSlide (enveloped s)).work.flangerOffset = none ∧ front s = .raised .numRange) ∨
    (∃ k d, periodStop (pitched s) = false ∧ intPeriod (vibratoPeriod (modulated s)) = some k ∧
      envStop (dutySlide (modulated s)) = false ∧
      flangerShift (flangerSlide (enveloped s)).work.flangerOffset = some d ∧
      front s = .go (hpfSweep (flangerSlide (enveloped s))) k (envValue (enveloped s)) d) := by
  unfold front
  cases hp : periodStop (pitched s) with
  | true => exact .inl ⟨rfl, rfl⟩
  | false =>
    refine .inr ?_
    cases hk : intPeriod (vibratoPeriod (modulated s)) with
    | none => exact .inl ⟨rfl, rfl, rfl⟩
    | some k =>
      refine .inr ?_
      cases he : envStop (dutySlide (modulated s)) with
      | true => exact .inl ⟨k, rfl, rfl, rfl, by simp [he, enveloped]⟩
      | false =>
        refine .inr ?_
        cases hf : flangerShift (flangerSlide (enveloped s)).work.flangerOffset with
        | none => exact .inl ⟨k, rfl, rfl, rfl, rfl, by simp [he, frontTail]; simp [enveloped] at hf; simp [hf]⟩
        | some d =>
          exact .inr ⟨k, d, rfl, rfl, rfl, rfl, by
            simp [he, frontTail]; simp [enveloped] at hf; simp [hf, enveloped]⟩

theorem primed_voice (s : State) : VoiceOnly s (primed s) :=
  ((enveloped_voice s).trans (flangerSlide_voice _)).trans (hpfSweep_voice _)

/-- Where the flanger step raises NUM_RANGE (45_flanger R190). -/
theorem flangerShift_eq_none (x : F64) : flangerShift x = none ↔ Fp.isNaN x = true := by
  rw [← Fp.floor_eq_nan]
  unfold flangerShift
  cases Fp.floor x <;> simp

/-- ISHIFT is at most 1023 (45_flanger R190). -/
theorem flangerShift_le {x : F64} {d : Nat} (h : flangerShift x = some d) : d ≤ 1023 := by
  unfold flangerShift at h
  cases hf : Fp.floor x <;> simp [hf] at h <;> omega

/-- IPER is 8 at least and fits 32 bits (42_oscillator R143). -/
theorem intPeriod_bounds {rf : F64} {k : Nat} (h : intPeriod rf = some k) : 8 ≤ k ∧ k ≤ 2 ^ 32 - 1 := by
  unfold intPeriod at h
  cases hf : Fp.floor rf with
  | nan => simp [hf] at h
  | posInf => simp [hf] at h
  | negInf => simp [hf] at h; omega
  | fin k' =>
    simp only [hf] at h
    split at h
    · simp at h
    · split at h <;> simp at h <;> omega

/-! ## Sub-samples -/

/-- Everything a sub-sample can do. -/
theorem subSample_cases {sh : Shape} {iper : Nat} {env : F64} {ishift : Nat} {p q : State × F64}
    (h : subSample sh iper env ishift p = some q) :
    ∃ x, waveform sh iper (phaseAdvance sh iper p.1) = some x ∧
      q.1 = flangerWrite (filtered x (phaseAdvance sh iper p.1)).run.fltphp
        (filtered x (phaseAdvance sh iper p.1)) ∧
      q.2 = Fp.add p.2 (Fp.mul (flangerOut (filtered x (phaseAdvance sh iper p.1)).run.fltphp ishift
        (filtered x (phaseAdvance sh iper p.1))) env) := by
  unfold subSample at h
  cases hw : waveform sh iper (phaseAdvance sh iper p.1) with
  | none => simp [hw] at h
  | some x =>
    simp only [hw, Option.some.injEq] at h
    exact ⟨x, rfl, by rw [← h], by rw [← h]⟩

theorem subSample_sound {sh : Shape} {iper : Nat} {env : F64} {ishift : Nat} {p q : State × F64}
    (h : subSample sh iper env ishift p = some q) : SoundOnly p.1 q.1 := by
  obtain ⟨x, -, h1, -⟩ := subSample_cases h
  rw [h1]
  exact ((phaseAdvance_sound sh iper p.1).trans (filtered_voice x _).sound).trans (flangerWrite_sound _ _)

theorem subSamples_sound {sh : Shape} {iper : Nat} {env : F64} {ishift n : Nat} {p q : State × F64}
    (h : subSamples sh iper env ishift n p = some q) : SoundOnly p.1 q.1 := by
  induction n generalizing p with
  | zero => simp [subSamples] at h; rw [h]; exact SoundOnly.refl _
  | succ n ih =>
    unfold subSamples at h
    cases hs : subSample sh iper env ishift p with
    | none => simp [hs] at h
    | some p' => simp only [hs] at h; exact (subSample_sound hs).trans (ih h)

/-- A property that every sub-sample keeps is kept by all of them. -/
theorem subSamples_induct {sh : Shape} {iper : Nat} {env : F64} {ishift n : Nat} {p q : State × F64}
    (P : State → Prop) (step : ∀ p q, subSample sh iper env ishift p = some q → P p.1 → P q.1)
    (h : subSamples sh iper env ishift n p = some q) (hp : P p.1) : P q.1 := by
  induction n generalizing p with
  | zero => simp [subSamples] at h; rw [← h]; exact hp
  | succ n ih =>
    unfold subSamples at h
    cases hs : subSample sh iper env ishift p with
    | none => simp [hs] at h
    | some p' => simp only [hs] at h; exact ih h (step _ _ hs hp)

/-- Only an illegal shape raises BAD_WAVE (42_oscillator R151). -/
theorem waveform_isSome (sh : Shape) (iper : Nat) (s : State) :
    (waveform sh iper s).isSome = true ↔ sh ≠ .illegal := by
  cases sh <;> simp [waveform]

theorem subSamples_legal {sh : Shape} (hsh : sh ≠ .illegal) (iper : Nat) (env : F64) (ishift n : Nat)
    (p : State × F64) : (subSamples sh iper env ishift n p).isSome = true := by
  induction n generalizing p with
  | zero => rfl
  | succ n ih =>
    unfold subSamples subSample
    cases hw : waveform sh iper (phaseAdvance sh iper p.1) with
    | none => have := (waveform_isSome sh iper (phaseAdvance sh iper p.1)).2 hsh; simp [hw] at this
    | some x => exact ih _

theorem subSamples_illegal (iper : Nat) (env : F64) (ishift n : Nat) (p : State × F64) :
    subSamples .illegal iper env ishift (n + 1) p = none := rfl

/-! ## Decimation -/

/-- Everything Emit can do. -/
theorem emit_cases {v : F64} {s t : State} (h : emit v s = some t) :
    s.count.outCount < s.outDepth ∧ t = emitStores v s := by
  unfold emit at h
  split at h
  · exact ⟨by assumption, (Option.some.inj h).symm⟩
  · simp at h

/-- Emit writes the two memories, the output counters and NAN_SEEN. -/
theorem emitStores_eq (v : F64) (s : State) :
    emitStores v s =
      { s with
        pcm := storedSample s.cfg s.count.outCount (quantised s.cfg (scale s.cfg v)).value s.pcm
        norm := cellWrite s.count.outCount (normBits (scale s.cfg v)) s.norm
        count := { s.count with
          outCount := s.count.outCount + 1
          clipCount := if (quantised s.cfg (scale s.cfg v)).clipped then s.count.clipCount + 1
            else s.count.clipCount }
        status := { s.status with
          nanSeen := s.status.nanSeen || (quantised s.cfg (scale s.cfg v)).nan } } := rfl

/-- Everything Decimate can do. -/
theorem decimate_cases {acc : F64} {s t : State} (h : decimate acc s = some t) :
    (s.run.numSummed + 1 < s.cfg.summands ∧
      t = { s with run := { s.run with
              numSummed := s.run.numSummed + 1, sampleSum := decimateSum acc s } }) ∨
    (s.cfg.summands ≤ s.run.numSummed + 1 ∧ s.count.outCount < s.outDepth ∧
      t = emitStores (Fp.div (decimateSum acc s) (Fp.ofNat s.cfg.summands))
        { s with run := { s.run with numSummed := 0, sampleSum := Fp.zero } }) := by
  unfold decimate at h
  split at h
  · obtain ⟨h1, h2⟩ := emit_cases h
    exact .inr ⟨by assumption, h1, h2⟩
  · exact .inl ⟨by omega, (Option.some.inj h).symm⟩

/-! ## The whole tick -/

/-- Everything a tick can come to when it answers a next state. -/
inductive TickCase (sh : Shape) (s t : State) : Prop where
  | idle (h : s.status.state ≠ .busy) (ht : t = s)
  | cap (h : s.status.state = .busy) (hc : s.maxTicks ≤ s.count.tickCount) (ht : t = endRun .tickCap s)
  | cutoff (h : s.status.state = .busy) (hc : s.count.tickCount < s.maxTicks)
      (hp : periodStop (pitched s) = true) (ht : t = endRun .freqCutoff (periodClamp (pitched s)))
  | envEnd (h : s.status.state = .busy) (hc : s.count.tickCount < s.maxTicks)
      (hp : periodStop (pitched s) = false) (he : envStop (dutySlide (modulated s)) = true)
      (ht : t = endRun .envEnd (enveloped s))
  | raised (code : FaultCode) (h : s.status.state = .busy) (hc : s.count.tickCount < s.maxTicks)
      (hcode : code ≠ .none) (ht : t = raiseFault code s)
  | completed (iper ishift : Nat) (u v : State) (acc : F64) (h : s.status.state = .busy)
      (hc : s.count.tickCount < s.maxTicks) (hp : periodStop (pitched s) = false)
      (hk : intPeriod (vibratoPeriod (modulated s)) = some iper)
      (he : envStop (dutySlide (modulated s)) = false)
      (hd : flangerShift (flangerSlide (enveloped s)).work.flangerOffset = some ishift)
      (hs : subSamples sh iper (envValue (enveloped s)) ishift 8 (primed s, Fp.zero) = some (u, acc))
      (hv : decimate acc u = some v) (ht : t = countTick v)

/-- The inversion of a tick (41_sequencer R120). -/
theorem tick_cases {sh : Shape} {s t : State} (h : tick sh s = .next t) : TickCase sh s t := by
  unfold tick at h
  by_cases hb : s.status.state = .busy
  · rw [if_pos hb] at h
    by_cases hc : s.maxTicks ≤ s.count.tickCount
    · rw [if_pos hc] at h
      exact .cap hb hc (Host.Outcome.next.inj h).symm
    · rw [if_neg hc] at h
      rw [Nat.not_le] at hc
      rcases front_cases s with ⟨hp, hf⟩ | ⟨hp, hk, hf⟩ | ⟨k, hp, hk, he, hf⟩ | ⟨k, hp, hk, he, hd, hf⟩ |
          ⟨k, d, hp, hk, he, hd, hf⟩
      · rw [hf] at h; exact .cutoff hb hc hp (Host.Outcome.next.inj h).symm
      · rw [hf] at h; exact .raised .numRange hb hc (by decide) (Host.Outcome.next.inj h).symm
      · rw [hf] at h; exact .envEnd hb hc hp he (Host.Outcome.next.inj h).symm
      · rw [hf] at h; exact .raised .numRange hb hc (by decide) (Host.Outcome.next.inj h).symm
      · rw [hf] at h
        unfold tickBack at h
        cases hs : subSamples sh k (envValue (enveloped s)) d 8 (primed s, Fp.zero) with
        | none =>
          simp only [primed] at hs
          simp only [hs] at h
          exact .raised .badWave hb hc (by decide) (Host.Outcome.next.inj h).symm
        | some p =>
          obtain ⟨u, acc⟩ := p
          have hs' := hs
          simp only [primed] at hs'
          simp only [hs'] at h
          cases hv : decimate acc u with
          | none => simp [hv] at h
          | some v =>
            simp only [hv] at h
            exact .completed k d u v acc hb hc hp hk he hd hs hv (Host.Outcome.next.inj h).symm
  · rw [if_neg hb] at h
    exact .idle hb (Host.Outcome.next.inj h).symm

end Sys2Proof.Machine
end

