-- ==== Sys2Proof/Laws/Run.lean ====
section
/-! SUPPORT. What each operation of a tick leaves in the working and the run-state registers, so that no later proof unfolds
one. -/

namespace Sys2Proof.Machine

/-! ## Steps 2 to 5 -/

theorem retrigger_run (s : State) :
    (retrigger s).run = { s.run with repElapsed := (retrigger s).run.repElapsed } := by
  unfold retrigger
  split
  · rfl
  · split <;> rfl

/-- REP_ELAPSED never passes REPEAT_TIME (10_state R40). -/
theorem retrigger_repElapsed (s : State) :
    (retrigger s).run.repElapsed = s.run.repElapsed ∨
      (retrigger s).run.repElapsed ≤ s.cfg.repeatTime.toNat := by
  unfold retrigger
  split
  · exact .inl rfl
  · split
    · exact .inr (Nat.zero_le _)
    · right
      simp only [setRun_run]
      omega

theorem arpeggio_run (s : State) : (arpeggio s).run = s.run := by
  unfold arpeggio
  split <;> rfl

theorem freqSlide_run (s : State) : (freqSlide s).run = s.run := by rw [freqSlide, setWork_run]

theorem periodClamp_run (s : State) : (periodClamp s).run = s.run := by
  unfold periodClamp
  split <;> rfl

theorem pitched_run (s : State) : (pitched s).run = (retrigger s).run := by
  unfold pitched
  rw [freqSlide_run, arpeggio_run]

/-! ## Steps 6 to 12 -/

theorem vibratoAdvance_run (s : State) :
    (vibratoAdvance s).run = { s.run with vibPhase := (vibratoAdvance s).run.vibPhase } := by
  unfold vibratoAdvance
  split <;> rfl

theorem vibratoAdvance_work (s : State) : (vibratoAdvance s).work = s.work := by
  unfold vibratoAdvance
  split <;> rfl

theorem modulated_run (s : State) :
    (modulated s).run =
      { s.run with
        repElapsed := (retrigger s).run.repElapsed, vibPhase := (modulated s).run.vibPhase } := by
  have h1 := vibratoAdvance_run (periodClamp (pitched s))
  rw [periodClamp_run, pitched_run, retrigger_run] at h1
  exact h1

theorem dutySlide_run (s : State) : (dutySlide s).run = s.run := by rw [dutySlide, setWork_run]

theorem envAdvance_run (s : State) :
    (envAdvance s).run =
      { s.run with
        envStage := (envAdvance s).run.envStage, envElapsed := (envAdvance s).run.envElapsed } := by
  unfold envAdvance
  split <;> rfl

theorem envAdvance_work (s : State) : (envAdvance s).work = s.work := by
  unfold envAdvance
  split <;> rfl

theorem enveloped_run (s : State) :
    (enveloped s).run =
      { s.run with
        repElapsed := (retrigger s).run.repElapsed, vibPhase := (modulated s).run.vibPhase
        envStage := (enveloped s).run.envStage, envElapsed := (enveloped s).run.envElapsed } := by
  have h1 := envAdvance_run (dutySlide (modulated s))
  rw [dutySlide_run, modulated_run] at h1
  exact h1

theorem flangerSlide_run (s : State) : (flangerSlide s).run = s.run := by rw [flangerSlide, setWork_run]

theorem hpfSweep_run (s : State) : (hpfSweep s).run = s.run := by
  unfold hpfSweep
  split <;> rfl

theorem primed_run (s : State) : (primed s).run = (enveloped s).run := by
  unfold primed
  rw [hpfSweep_run, flangerSlide_run]

/-! ## The working registers after steps 2 to 9 -/

theorem pitched_cfg (s : State) : (pitched s).cfg = s.cfg := (pitched_voice s).fields.2.2.2.2.2.1

theorem modulated_cfg (s : State) : (modulated s).cfg = s.cfg := (modulated_voice s).fields.2.2.2.2.2.1

/-- The frequency slide, on the registers that retrigger and arpeggio leave (42_oscillator R140). -/
theorem pitched_work (s : State) :
    (pitched s).work =
      { (arpeggio (retrigger s)).work with
        periodMult := Fp.add (arpeggio (retrigger s)).work.periodMult s.cfg.periodMultSlide
        period := Fp.mul (arpeggio (retrigger s)).work.period
          (Fp.add (arpeggio (retrigger s)).work.periodMult s.cfg.periodMultSlide) } := by
  have hc : (arpeggio (retrigger s)).cfg = s.cfg :=
    ((retrigger_voice s).trans (arpeggio_voice _)).fields.2.2.2.2.2.1
  rw [pitched, freqSlide, setWork_work, hc]

/-- The period limit (42_oscillator R141). -/
theorem periodClamp_work (s : State) :
    (periodClamp s).work =
      { s.work with
        period := if Fp.lt s.cfg.periodMax s.work.period then s.cfg.periodMax else s.work.period } := by
  unfold periodClamp periodPast
  split <;> simp only [setWork_work]

theorem modulated_work (s : State) : (modulated s).work = (periodClamp (pitched s)).work := vibratoAdvance_work _

/-- The vibrato's write (42_oscillator R142). -/
theorem modulated_vibPhase (s : State) :
    (modulated s).run.vibPhase =
      if Fp.lt Fp.zero s.cfg.vibAmp then Fp.add s.run.vibPhase s.cfg.vibSpeed else s.run.vibPhase := by
  have h1 : (periodClamp (pitched s)).cfg = s.cfg :=
    ((pitched_voice s).trans (periodClamp_voice _)).fields.2.2.2.2.2.1
  have h2 : (periodClamp (pitched s)).run.vibPhase = s.run.vibPhase := by
    rw [periodClamp_run, pitched_run, retrigger_run]
  unfold modulated vibratoAdvance vibratoOn
  rw [h1]
  split
  · rw [setRun_run]
    simp only
    rw [h2]
  · exact h2

/-- The duty slide (42_oscillator R144). -/
theorem enveloped_work (s : State) :
    (enveloped s).work =
      { (modulated s).work with
        duty := clampZeroTo Fp.half (Fp.add (modulated s).work.duty s.cfg.dutySlide) } := by
  rw [enveloped, envAdvance_work, dutySlide, setWork_work, modulated_cfg]

/-- The CFG registers a tick reads are those at its start. -/
theorem slid_cfg (s : State) : (dutySlide (modulated s)).cfg = s.cfg :=
  ((modulated_voice s).trans (dutySlide_voice _)).fields.2.2.2.2.2.1

theorem slid_env (s : State) :
    (dutySlide (modulated s)).run.envStage = s.run.envStage ∧
      (dutySlide (modulated s)).run.envElapsed = s.run.envElapsed := by
  rw [dutySlide_run, modulated_run]
  exact ⟨rfl, rfl⟩

/-- The stage is over when its elapsed count passes its length (43_envelope R170). -/
theorem envStageOver_iff (s : State) :
    envStageOver (dutySlide (modulated s)) = true ↔ s.cfg.stageLen s.run.envStage < s.run.envElapsed + 1 := by
  simp [envStageOver, slid_env s, slid_cfg s]

/-- EnvAdvance stops the run when the decay stage, or a later one, is over (43_envelope R170). -/
theorem envStop_iff (s : State) :
    envStop (dutySlide (modulated s)) = true ↔
      s.cfg.stageLen s.run.envStage < s.run.envElapsed + 1 ∧ 2 ≤ s.run.envStage := by
  rw [envStop, Bool.and_eq_true, envStageOver_iff, (slid_env s).1, decide_eq_true_eq]
  omega

/-- Where the envelope stands after EnvAdvance (43_envelope R170). -/
theorem enveloped_stage (s : State) :
    if s.cfg.stageLen s.run.envStage < s.run.envElapsed + 1 then
      (enveloped s).run.envStage = s.run.envStage + 1 ∧ (enveloped s).run.envElapsed = 0
    else (enveloped s).run.envStage = s.run.envStage ∧ (enveloped s).run.envElapsed = s.run.envElapsed + 1 := by
  unfold enveloped envAdvance
  by_cases h : s.cfg.stageLen s.run.envStage < s.run.envElapsed + 1
  · rw [if_pos h, if_pos ((envStageOver_iff s).2 h)]
    exact ⟨by rw [setRun_run]; simp only; rw [(slid_env s).1], rfl⟩
  · rw [if_neg h, if_neg (fun h' => h ((envStageOver_iff s).1 h'))]
    exact ⟨by rw [setRun_run]; simp only; rw [(slid_env s).1], by rw [setRun_run]; simp only; rw [(slid_env s).2]⟩

/-! ## Sub-samples -/

/-- The phase of a sub-sample is the next one, modulo IPER (42_oscillator R150). -/
theorem phaseAdvance_run (sh : Shape) (iper : Nat) (s : State) :
    (phaseAdvance sh iper s).run = { s.run with phase := (s.run.phase + 1) % iper } := by
  unfold phaseAdvance
  split
  · rename_i h
    rw [setRun_run, Nat.mod_eq_of_lt h]
  · simp only
    split <;> rfl

/-- The table is refilled when the phase of a NOISE run wraps (42_oscillator R150). -/
theorem phaseAdvance_noise (sh : Shape) (iper : Nat) (s : State) :
    if sh = .noise ∧ iper ≤ s.run.phase + 1 then
      (phaseAdvance sh iper s).nbuf = drawTable s.drawCount ∧ (phaseAdvance sh iper s).drawCount = s.drawCount + 32
    else (phaseAdvance sh iper s).nbuf = s.nbuf ∧ (phaseAdvance sh iper s).drawCount = s.drawCount := by
  unfold phaseAdvance
  by_cases h : s.run.phase + 1 < iper
  · rw [if_neg (by omega), if_pos h]
    exact ⟨rfl, rfl⟩
  · rw [if_neg h]
    simp only
    by_cases hs : sh = .noise
    · rw [if_pos ⟨hs, by omega⟩, if_pos hs]
      exact ⟨rfl, rfl⟩
    · rw [if_neg (fun h' => hs h'.1), if_neg hs]
      exact ⟨rfl, rfl⟩

theorem phaseAdvance_rest (sh : Shape) (iper : Nat) (s : State) :
    (phaseAdvance sh iper s).work = s.work ∧ (phaseAdvance sh iper s).fbuf = s.fbuf := by
  unfold phaseAdvance
  split
  · exact ⟨rfl, rfl⟩
  · simp only
    split <;> exact ⟨rfl, rfl⟩

theorem filtered_run (x : F64) (s : State) :
    (filtered x s).run =
      { s.run with
        fltp := (filtered x s).run.fltp, fltdp := (filtered x s).run.fltdp, fltphp := (filtered x s).run.fltphp } := by
  simp only [filtered, highpass, lowpass, lpfSweep, setRun_run, setWork_run]

theorem filtered_work (x : F64) (s : State) :
    (filtered x s).work = { s.work with fltw := (filtered x s).work.fltw } := by
  simp only [filtered, highpass, lowpass, lpfSweep, setRun_work, setWork_work]

/-- W_FLTW after the filters (44_filters R180). -/
theorem filtered_fltw (x : F64) (s : State) :
    (filtered x s).work.fltw = clampZeroTo Fp.tenth (Fp.mul s.work.fltw s.cfg.fltwD) := by
  simp only [filtered, highpass, lowpass, lpfSweep, setRun_work, setWork_work]

/-- FLTDP after the filters, with the low-pass on (44_filters R181). -/
theorem filtered_fltdp_on (x : F64) {s : State} (h : s.cfg.lpfEn = true) :
    (filtered x s).run.fltdp =
      Fp.sub (Fp.add s.run.fltdp (Fp.mul (Fp.sub x s.run.fltp) (clampZeroTo Fp.tenth (Fp.mul s.work.fltw s.cfg.fltwD))))
        (Fp.mul (Fp.add s.run.fltdp
          (Fp.mul (Fp.sub x s.run.fltp) (clampZeroTo Fp.tenth (Fp.mul s.work.fltw s.cfg.fltwD)))) s.cfg.fltdmp) := by
  simp only [filtered, highpass, lowpass, lpfSweep, lowpassVelocity, setRun_run, setWork_run, setWork_cfg, setWork_work,
    h, if_true]

/-- FLTDP after the filters, with the low-pass off (44_filters R181). -/
theorem filtered_fltdp_off (x : F64) {s : State} (h : s.cfg.lpfEn = false) :
    (filtered x s).run.fltdp = Fp.zero := by
  simp only [filtered, highpass, lowpass, lpfSweep, lowpassVelocity, setRun_run, setWork_cfg, h, Bool.false_eq_true,
    if_false]

/-- FLTP after the filters (44_filters R181). -/
theorem filtered_fltp (x : F64) (s : State) :
    (filtered x s).run.fltp = Fp.add (if s.cfg.lpfEn then s.run.fltp else x) (filtered x s).run.fltdp := by
  simp only [filtered, highpass, lowpass, lpfSweep, setRun_run, setWork_run, setWork_cfg]
  by_cases h : s.cfg.lpfEn = true <;> simp only [h, if_true, if_false, Bool.false_eq_true]

/-- FLTPHP after the filters (44_filters R183). -/
theorem filtered_fltphp (x : F64) (s : State) :
    (filtered x s).run.fltphp =
      Fp.sub (Fp.add s.run.fltphp (Fp.sub (filtered x s).run.fltp s.run.fltp))
        (Fp.mul (Fp.add s.run.fltphp (Fp.sub (filtered x s).run.fltp s.run.fltp)) s.work.flthp) := by
  simp only [filtered, highpass, lowpass, lpfSweep, setRun_run, setWork_run, setRun_work, setWork_work]

/-- The written ring: the new entry at IPP and every other as it was (45_flanger R191). -/
theorem ringWrite_getD (x : F64) {s : State} (hi : s.run.ipp < 1024) {k : Nat} (hk : k < 1024) :
    (ringWrite x s).getD k Fp.zero = if k = s.run.ipp then x else s.fbuf.getD k Fp.zero := by
  unfold ringWrite
  rw [Vector.getD, Vector.getD, Array.getD, Array.getD, dif_pos (by simpa using hk), dif_pos (by simpa using hk)]
  by_cases h : k = s.run.ipp
  · subst h
    rw [if_pos rfl]
    exact Vector.getElem_setIfInBounds_self hi
  · rw [if_neg h]
    exact Vector.getElem_setIfInBounds_ne hk (fun h' => h h'.symm)

/-- The tap: the entry just written at distance 0, an older one otherwise (45_flanger R191). -/
theorem flangerOut_eq (x : F64) {shift : Nat} (hs : shift ≤ 1023) {s : State} (hi : s.run.ipp < 1024) :
    flangerOut x shift s =
      Fp.add x (if shift = 0 then x else s.fbuf.getD ((s.run.ipp + 1024 - shift) % 1024) Fp.zero) := by
  unfold flangerOut ringTap
  rw [ringWrite_getD x hi (Nat.mod_lt _ (by norm_num))]
  by_cases h0 : shift = 0
  · rw [if_pos (by omega), if_pos h0]
  · rw [if_neg (by omega), if_neg h0]

theorem flangerWrite_run (x : F64) (s : State) :
    (flangerWrite x s).run = { s.run with ipp := (s.run.ipp + 1) % 1024 } := by rw [flangerWrite, setRun_run]

theorem flangerWrite_rest (x : F64) (s : State) :
    (flangerWrite x s).work = s.work ∧ (flangerWrite x s).nbuf = s.nbuf ∧
      (flangerWrite x s).drawCount = s.drawCount := by
  simp only [flangerWrite, setRun_work, setFbuf_work, setRun_nbuf, setFbuf_nbuf, setRun_drawCount, setFbuf_drawCount,
    and_self]

/-- A sub-sample of a pair, with the state and ACC apart. -/
theorem subSample_pair {sh : Shape} {iper : Nat} {env : F64} {ishift : Nat} {s t : State} {a b : F64}
    (h : subSample sh iper env ishift (s, a) = some (t, b)) :
    ∃ x, waveform sh iper (phaseAdvance sh iper s) = some x ∧
      t = flangerWrite (filtered x (phaseAdvance sh iper s)).run.fltphp (filtered x (phaseAdvance sh iper s)) ∧
      b = Fp.add a (Fp.mul (flangerOut (filtered x (phaseAdvance sh iper s)).run.fltphp ishift
        (filtered x (phaseAdvance sh iper s))) env) := by
  obtain ⟨x, h1, h2, h3⟩ := subSample_cases h
  simp only at h1 h2 h3
  exact ⟨x, h1, h2, h3⟩

/-- The run-state registers after a sub-sample. -/
theorem subSample_run {sh : Shape} {iper : Nat} {env : F64} {ishift : Nat} {s t : State} {a b : F64}
    (h : subSample sh iper env ishift (s, a) = some (t, b)) :
    t.run =
      { s.run with
        phase := (s.run.phase + 1) % iper, ipp := (s.run.ipp + 1) % 1024
        fltp := t.run.fltp, fltdp := t.run.fltdp, fltphp := t.run.fltphp } := by
  obtain ⟨x, -, ht, -⟩ := subSample_pair h
  rw [ht, flangerWrite_run, filtered_run, phaseAdvance_run]

/-- The working registers after a sub-sample. -/
theorem subSample_work {sh : Shape} {iper : Nat} {env : F64} {ishift : Nat} {s t : State} {a b : F64}
    (h : subSample sh iper env ishift (s, a) = some (t, b)) : t.work = { s.work with fltw := t.work.fltw } := by
  obtain ⟨x, -, ht, -⟩ := subSample_pair h
  have h1 : t.work = (filtered x (phaseAdvance sh iper s)).work := by rw [ht, (flangerWrite_rest _ _).1]
  rw [h1, filtered_work, (phaseAdvance_rest sh iper s).1]

/-- The noise table after a sub-sample. -/
theorem subSample_noise {sh : Shape} {iper : Nat} {env : F64} {ishift : Nat} {s t : State} {a b : F64}
    (h : subSample sh iper env ishift (s, a) = some (t, b)) :
    if sh = .noise ∧ iper ≤ s.run.phase + 1 then t.nbuf = drawTable s.drawCount ∧ t.drawCount = s.drawCount + 32
    else t.nbuf = s.nbuf ∧ t.drawCount = s.drawCount := by
  obtain ⟨x, -, ht, -⟩ := subSample_pair h
  have hf := (filtered_voice x (phaseAdvance sh iper s)).fields
  have h1 : t.nbuf = (phaseAdvance sh iper s).nbuf := by
    rw [ht, (flangerWrite_rest _ _).2.1]; exact hf.2.2.2.2.2.2.1
  have h2 : t.drawCount = (phaseAdvance sh iper s).drawCount := by
    rw [ht, (flangerWrite_rest _ _).2.2]; exact hf.2.2.2.2.2.2.2.2.2.2.2.2.2.2
  rw [h1, h2]
  exact phaseAdvance_noise sh iper s

/-- The run-state registers after `n` sub-samples: only the filters, the phase and the ring index have moved. -/
theorem subSamples_run {sh : Shape} {iper : Nat} {env : F64} {ishift n : Nat} {s t : State} {a b : F64}
    (h : subSamples sh iper env ishift n (s, a) = some (t, b)) :
    t.run =
      { s.run with
        phase := t.run.phase, ipp := t.run.ipp, fltp := t.run.fltp, fltdp := t.run.fltdp, fltphp := t.run.fltphp } ∧
    t.work = { s.work with fltw := t.work.fltw } := by
  induction n generalizing s a with
  | zero =>
    simp only [subSamples, Option.some.injEq, Prod.mk.injEq] at h
    rw [h.1]
    exact ⟨rfl, rfl⟩
  | succ n ih =>
    unfold subSamples at h
    cases hs : subSample sh iper env ishift (s, a) with
    | none => simp [hs] at h
    | some p =>
      obtain ⟨s', a'⟩ := p
      simp only [hs] at h
      obtain ⟨h1, h2⟩ := ih h
      have h3 := subSample_run hs
      have h4 := subSample_work hs
      refine ⟨?_, ?_⟩
      · rw [h1, h3]
      · rw [h2, h4]

/-- The phase and the ring index after `n + 1` sub-samples. -/
theorem subSamples_phase {sh : Shape} {iper : Nat} {env : F64} {ishift n : Nat} {s t : State} {a b : F64}
    (h : subSamples sh iper env ishift (n + 1) (s, a) = some (t, b)) :
    t.run.phase = (s.run.phase + (n + 1)) % iper ∧ t.run.ipp = (s.run.ipp + (n + 1)) % 1024 := by
  induction n generalizing s a with
  | zero =>
    unfold subSamples at h
    cases hs : subSample sh iper env ishift (s, a) with
    | none => simp [hs] at h
    | some p =>
      obtain ⟨s', a'⟩ := p
      simp only [hs, subSamples, Option.some.injEq, Prod.mk.injEq] at h
      have h3 := subSample_run hs
      rw [← h.1, h3]
      exact ⟨rfl, rfl⟩
  | succ n ih =>
    unfold subSamples at h
    cases hs : subSample sh iper env ishift (s, a) with
    | none => simp [hs] at h
    | some p =>
      obtain ⟨s', a'⟩ := p
      simp only [hs] at h
      have h3 := subSample_run hs
      obtain ⟨h1, h2⟩ := ih h
      rw [h1, h2, h3]
      simp only
      refine ⟨?_, ?_⟩
      · rw [Nat.mod_add_mod]; congr 1; omega
      · rw [Nat.mod_add_mod]; congr 1; omega

/-- What sub-samples do to the state, with the pair taken apart. -/
theorem subSamples_frame {sh : Shape} {iper : Nat} {env : F64} {ishift n : Nat} {s t : State} {a b : F64}
    (h : subSamples sh iper env ishift n (s, a) = some (t, b)) : SoundOnly s t := by
  have h1 := subSamples_sound h
  simp only at h1
  exact h1

/-- Sub-samples keep the noise table in range (42_oscillator R157). -/
theorem subSamples_noiseRange {sh : Shape} {iper : Nat} {env : F64} {ishift n : Nat} {s t : State} {a b : F64}
    (h : subSamples sh iper env ishift n (s, a) = some (t, b))
    (hs : ∀ i, i < 32 → inNoiseRange (s.nbuf.getD i Fp.zero) = true) :
    ∀ i, i < 32 → inNoiseRange (t.nbuf.getD i Fp.zero) = true := by
  induction n generalizing s a with
  | zero =>
    simp only [subSamples, Option.some.injEq, Prod.mk.injEq] at h
    rw [← h.1]
    exact hs
  | succ n ih =>
    unfold subSamples at h
    cases hq : subSample sh iper env ishift (s, a) with
    | none => simp [hq] at h
    | some p =>
      obtain ⟨s', a'⟩ := p
      simp only [hq] at h
      refine ih h ?_
      intro i hi
      have hn := subSample_noise hq
      split at hn
      · rw [hn.1, drawTable_getD hi]
        exact inNoiseRange_draw _
      · rw [hn.1]
        exact hs i hi

/-! ## Ticks of a legal shape -/

/-- With room for a sample Decimate answers. -/
theorem decimate_isSome (acc : F64) {s : State} (h : s.count.outCount < s.outDepth) :
    ∃ t, decimate acc s = some t := by
  unfold decimate
  split
  · unfold emit
    rw [setRun_count, setRun_outDepth, if_pos h]
    exact ⟨_, rfl⟩
  · exact ⟨_, rfl⟩

/-- Steps 2 to 12 of a tick that reaches its sub-samples. -/
theorem front_reaches {s : State} (hr : ReachesSubSamples s) :
    front s = .go (primed s) (tickPeriod s) (tickEnv s) (tickShift s) := by
  obtain ⟨-, -, hp, hk, he, ho⟩ := hr
  obtain ⟨k, hk'⟩ := Option.isSome_iff_exists.1 hk
  have hoff : flangerShift (flangerSlide (enveloped s)).work.flangerOffset ≠ none := by
    rw [Ne, flangerShift_eq_none]
    have : (flangerSlide (enveloped s)).work.flangerOffset
        = Fp.add (enveloped s).work.flangerOffset s.cfg.flangerSlide := by
      rw [flangerSlide, setWork_work, (enveloped_voice s).fields.2.2.2.2.2.1]
    rw [this, ho]
    decide
  rcases front_cases s with ⟨h1, -⟩ | ⟨-, h2, -⟩ | ⟨_, -, -, h3, -⟩ | ⟨_, -, -, -, h4, -⟩ | ⟨k', d, -, h5, -, h6, h7⟩
  · rw [hp] at h1; exact absurd h1 (by decide)
  · rw [hk'] at h2; exact absurd h2 (by simp)
  · rw [he] at h3; exact absurd h3 (by decide)
  · exact absurd h4 hoff
  · have e1 : tickPeriod s = k' := by rw [tickPeriod, h5, Option.getD_some]
    have e2 : tickShift s = d := by rw [tickShift, h6, Option.getD_some]
    rw [h7, e1, e2, primed, tickEnv]

/-- A tick that reaches its sub-samples, with a legal shape and room for a sample, completes. -/
theorem tick_completes {sh : Shape} {s : State} (hr : ReachesSubSamples s) (hsh : sh ≠ .illegal)
    (hroom : s.count.outCount < s.outDepth) :
    ∃ u acc v, subSamples sh (tickPeriod s) (tickEnv s) (tickShift s) 8 (primed s, Fp.zero) = some (u, acc) ∧
      decimate acc u = some v ∧ tick sh s = .next (countTick v) := by
  have hsome := subSamples_legal hsh (tickPeriod s) (tickEnv s) (tickShift s) 8 (primed s, Fp.zero)
  obtain ⟨⟨u, acc⟩, hu⟩ := Option.isSome_iff_exists.1 hsome
  have hS := ((primed_voice s).sound.trans (subSamples_frame hu)).fields
  obtain ⟨v, hv⟩ := decimate_isSome acc (s := u) (by rw [hS.2.2.1, hS.2.2.2.2.1]; exact hroom)
  refine ⟨u, acc, v, hu, hv, ?_⟩
  rw [tick, if_pos hr.busy, if_neg (Nat.not_le.2 hr.noCap), front_reaches hr]
  simp only [tickBack, hu, hv]

/-- A tick that reaches its sub-samples with an illegal shape raises BAD_WAVE. -/
theorem tick_illegal {s : State} (hr : ReachesSubSamples s) : tick .illegal s = .next (raiseFault .badWave s) := by
  rw [tick, if_pos hr.busy, if_neg (Nat.not_le.2 hr.noCap), front_reaches hr]
  simp only [tickBack, subSamples_illegal]

end Sys2Proof.Machine
end

