-- ==== Sys2Proof/Laws/Wave.lean ====
section
/-! SUPPORT. The wave-shape codes as ticks, and a step as the instruction it fetches. -/

namespace Sys2Proof.Machine

/-- The oscillator operation a code of WAVE_TYPE selects (30_encoding R85). -/
def shapeOf (w : Word) : Shape :=
  if w.toNat = 0 then .square else if w.toNat = 1 then .saw else if w.toNat = 2 then .sine
  else if w.toNat = 3 then .noise else .illegal

/-- Running a wave-shape code is a tick of its shape. -/
theorem exec_decodeWave (w : Word) (s : State) : exec (decodeWave w) s = tick (shapeOf w) s := by
  unfold decodeWave shapeOf
  split <;> rename_i h
  · rw [if_pos h]; rfl
  · rw [if_neg (by omega), if_pos h]; rfl
  · rw [if_neg (by omega), if_neg (by omega), if_pos h]; rfl
  · rw [if_neg (by omega), if_neg (by omega), if_neg (by omega), if_pos h]; rfl
  · rename_i h1 h2 h3
    rw [if_neg (by simpa using h1), if_neg (by simpa using h2), if_neg (by simpa using h3), if_neg (by simpa using h)]
    rfl

theorem shapeOf_illegal (w : Word) : shapeOf w = .illegal ↔ 4 ≤ w.toNat := by
  unfold shapeOf
  split
  · simp; omega
  · split
    · simp; omega
    · split
      · simp; omega
      · split
        · simp; omega
        · simp; omega

/-- Everything a step can be: a tick, a host transaction, or a turn given up. -/
theorem step_eq (s : State) :
    (nextAgent s = .block ∧ step s = tick (shapeOf s.cfg.waveType) (advanced s s.bus)) ∨
    (∃ i rest, nextAgent s = .host ∧ decode .bus s.bus = .instr i rest ∧ step s = exec i (advanced s rest)) ∨
    (nextAgent s = .host ∧ step s = .next (advanced s s.bus)) := by
  cases ha : nextAgent s with
  | block =>
    refine .inl ⟨rfl, ?_⟩
    simp only [step, ha, fetch]
    exact exec_decodeWave _ _
  | host =>
    refine .inr ?_
    cases hd : decode .bus s.bus with
    | instr i rest => exact .inl ⟨i, rest, rfl, rfl, by simp [step, ha, fetch, hd]⟩
    | noTransaction => exact .inr ⟨rfl, by simp [step, ha, fetch, hd]⟩
    | missingData => exact .inr ⟨rfl, by simp [step, ha, fetch, hd]⟩

end Sys2Proof.Machine
end

