-- ==== Sys2Proof/Tests/Slice0.lean ====
section
/-! SUPPORT. Tests: ill-formed terms, words written out from 30_encoding, one step per instruction with results from
95_test_vectors or by hand from the rule named, and for every statement with hypotheses a state that meets them. -/

namespace Sys2Proof.Machine

-- Each test in turn: kernel evaluations that wait for each other side by side hold a stack apiece, 12 GB in all.
set_option Elab.async false

/-! ## Ill-formed terms, one per check of WellFormed -/

theorem test_wf_refuses_write_to_cmd : (Instr.regWr 0x000001#24 5#64).wellFormed = false := by decide
theorem test_wf_refuses_transaction_as_reserved : (Instr.reservedOp 0x10000000#32).wellFormed = false := by decide
theorem test_wf_refuses_start_as_reserved : (Instr.cmdReserved 0#56 0x02#8).wellFormed = false := by decide
theorem test_wf_refuses_noise_as_illegal : (Instr.waveIllegal 3#32).wellFormed = false := by decide

/-! ## Decoding of words written out from 30_encoding R80 to R89 -/

/-- OP = 0001, RSV = 0000, ADDR = 0x00002A (vector HO-2). -/
theorem test_decode_regRd :
    decode .bus [0b00010000000000000000000000101010#32] = .instr (.regRd 0x2A#24) [] := by decide
/-- OP = 0010, ADDR = 0x000011, D = 16.0; the next transaction stays (R89). -/
theorem test_decode_regWr :
    decode .bus [0b00100000000000000000000000010001#32, 0x00000000#32, 0x40300000#32, 0x10000002#32] =
      .instr (.regWr 0x11#24 0x4030000000000000#64) [0x10000002#32] := by decide
theorem test_decode_pcmRd :
    decode .bus [0b00110000000000000000000000000101#32] = .instr (.pcmRd 5#24) [] := by decide
theorem test_decode_normRd :
    decode .bus [0b01000000000000000000000000000001#32] = .instr (.normRd 1#24) [] := by decide
/-- Vector HO-23, and OP = 5. -/
theorem test_decode_reserved_op :
    decode .bus [0x00000000#32] = .instr (.reservedOp 0x00000000#32) [] ∧
    decode .bus [0x50000000#32] = .instr (.reservedOp 0x50000000#32) [] := by decide
/-- Vector HO-24: RSV = 1, one word long. -/
theorem test_decode_reserved_rsv :
    decode .bus [0x21000011#32, 7#32] = .instr (.reservedOp 0x21000011#32) [7#32] := by decide
/-- REG_WR to CMD with D[7:0] = 0, 1, 2, 3 and 0xFF; D[63:8] is ignored (R84, vector HO-14). -/
theorem test_decode_commands :
    decode .bus [0x20000001#32, 0#32, 0#32] = .instr (.cmdNop 0#56) [] ∧
    decode .bus [0x20000001#32, 0x101#32, 0#32] = .instr (.cmdStart 1#56) [] ∧
    decode .bus [0x20000001#32, 2#32, 0#32] = .instr (.cmdReset 0#56) [] ∧
    decode .bus [0x20000001#32, 3#32, 0#32] = .instr (.cmdReserved 0#56 3#8) [] ∧
    decode .bus [0x20000001#32, 0xFF#32, 0#32] = .instr (.cmdReserved 0#56 0xFF#8) [] := by decide
/-- WAVE_TYPE = 0 to 4 and all ones (R85). -/
theorem test_decode_waves :
    decode .waveType [0#32] = .instr .waveSquare [] ∧ decode .waveType [1#32] = .instr .waveSaw [] ∧
    decode .waveType [2#32] = .instr .waveSine [] ∧ decode .waveType [3#32] = .instr .waveNoise [] ∧
    decode .waveType [4#32] = .instr (.waveIllegal 4#32) [] ∧
    decode .waveType [0xFFFFFFFF#32] = .instr (.waveIllegal 0xFFFFFFFF#32) [] := by decide
theorem test_decode_missing_data : decode .bus [0x20000011#32, 0#32] = .missingData := by decide
theorem test_table_words :
    decodeTableWord 32 0x10000002 = some (.regRd 2#24) ∧ decodeTableWord 32 3 = some .waveNoise ∧
    decodeTableWord 96 0x403000000000000020000011 = some (.regWr 0x11#24 0x4030000000000000#64) := by decide

/-! ## States to run on -/

/-- A part of the state an outcome leads to. -/
def after {α : Type} (o : Host.Outcome State Fault Refusal) (f : State → α) : Option α :=
  match o with
  | .next t => some (f t)
  | .fault _ => none
  | .refused _ => none

theorem next_of_after {α : Type} {o : Host.Outcome State Fault Refusal} {f : State → α} {v : α}
    (h : after o f = some v) : ∃ t, o = .next t ∧ f t = v := by
  cases o with
  | next t => exact ⟨t, rfl, Option.some.inj h⟩
  | fault _ => cases h
  | refused _ => cases h

/-- The registers of program P1 (95_test_vectors section 3). -/
def cfgP1 : Cfg :=
  { Cfg.atReset with
    period := 0x4030000000000000#64, periodMax := 0x41CDCD6500000000#64, periodMult := 0x3FF0000000000000#64
    duty := 0x3FE0000000000000#64, envLen1 := 4#32, gain := 0x3FF0000000000000#64 }

/-- A run of these registers at its first tick, with MAX_TICKS = 10 and OUT_DEPTH = 16. -/
def busyWith (c : Cfg) : State :=
  { State.reset with
    maxTicks := 10, outDepth := 16, cfg := c, work := Work.load c, bps := c.bps
    status := { Status.zero with state := .busy } }

/-- Program P1 at its first tick. -/
def p1 : State := busyWith cfgP1

/-- A state that is not BUSY with two 8-bit samples stored, the first two of P1, IRQ_EN set and EVT pending. -/
def finished : State :=
  { p1 with
    status := { Status.zero with state := .done, evt := true, endReason := .envEnd }
    ctrl := { irqEn := true, retrigOsc := false }
    count := { outCount := 2, clipCount := 0, tickCount := 2, faultTick := 0 }
    pcm := [(0, 224#8), (1, 32#8)], norm := [(0, 0x3F400000#32), (1, 0xBF400000#32)] }

/-! ## One step per instruction -/

/-- Vectors HO-1, HO-2. -/
theorem test_regRd :
    after (exec (.regRd 0x00#24) State.reset) (·.response) = some 0x5346585200000007#64 ∧
    after (exec (.regRd 0x2A#24) State.reset) (·.response) = some 0x000000000000AC44#64 := by decide
/-- Vectors HO-4, HO-5. -/
theorem test_regRd_unmapped :
    after (exec (.regRd 0x0A#24) State.reset) (fun t => (t.response, t.status.toBits)) = some (0#64, 0x80000#64) ∧
    after (exec (.regRd 0x110#24) State.reset) (·.status.toBits) = some 0x80000#64 := by decide
/-- Vectors HO-9, HO-10. -/
theorem test_regWr :
    after (exec (.regWr 0x10#24 0x0000000100000003#64) State.reset) (·.cfg.waveType) = some 3#32 ∧
    after (exec (.regWr 0x19#24 0xFF#64) State.reset) (fun t => (t.cfg.cutoffEn, t.cfg.lpfEn)) =
      some (true, true) := by decide
/-- Vectors HO-21, HO-22. -/
theorem test_regWr_status :
    (Status.writeOneToClear
      { Status.zero with
        state := .done, evt := true, endReason := .envEnd, errBusy := true, errCmd := true, errCfg := true
        errAddr := true } 0xF0004#64).toBits = 0x12#64 ∧
    (Status.writeOneToClear
      { Status.zero with state := .done, evt := true, endReason := .envEnd } 0x3#64).toBits = 0x16#64 := by decide
/-- Vectors HO-25, HO-26 in small. -/
theorem test_pcmRd :
    after (exec (.pcmRd 1#24) finished) (·.response) = some 32#64 ∧
    after (exec (.pcmRd 2#24) finished) (fun t => (t.response, t.status.errAddr)) = some (0#64, true) := by decide
/-- Vector HO-27. -/
theorem test_normRd :
    after (exec (.normRd 1#24) finished) (·.response) = some 0x00000000BF400000#64 ∧
    after (exec (.normRd 2#24) finished) (fun t => (t.response, t.status.errAddr)) = some (0#64, true) := by decide
/-- Vector HO-23. -/
theorem test_reservedOp :
    after (exec (.reservedOp 0#32) finished) (fun t => (t.response, t.status.toBits)) =
      some (0#64, 0x80016#64) := by decide
/-- Vector HO-12, while BUSY. -/
theorem test_cmdNop : after (exec (.cmdNop 7#56) p1) (fun t => (t.status.toBits, t.run, t.count)) =
    some (1#64, RunRegs.zero, Counters.zero) := by decide
/-- START of a second run: BUSY, EVT and END_REASON cleared, the counters at 0, 32 draws made (R45). -/
theorem test_cmdStart :
    after (exec (.cmdStart 1#56) finished) (fun t => (t.status.toBits, t.count, t.drawCount, t.work.period)) =
      some (1#64, Counters.zero, 32, 0x4030000000000000#64) := by decide
/-- Vectors HO-15, HO-17, HO-19. -/
theorem test_cmdStart_refused :
    after (exec (.cmdStart 0#56) { finished with cfg := { cfgP1 with sampleRate := 0#32 } })
      (fun t => (t.status.toBits, t.count.outCount)) = some (0x40016#64, 2) ∧
    after (exec (.cmdStart 0#56) { State.reset with cfg := { cfgP1 with sampleSize := 12#32 } })
      (·.status.toBits) = some 0x40000#64 ∧
    after (exec (.cmdStart 0#56) p1) (·.status.toBits) = some 0x10001#64 := by decide
/-- Vector HO-28. -/
theorem test_cmdReset :
    after (exec (.cmdReset 0#56) finished) (fun t => (t.status.toBits, t.count.outCount, t.cfg.period, t.pcm.length)) =
      some (0#64, 0, 0x4030000000000000#64, 2) ∧
    after (exec (.cmdReset 0#56) p1) (·.status.toBits) = some 0x10001#64 := by decide
/-- Vectors HO-13, HO-20. -/
theorem test_cmdReserved :
    after (exec (.cmdReserved 0#56 0x7F#8) State.reset) (·.status.toBits) = some 0x20000#64 ∧
    after (exec (.cmdReserved 0#56 3#8) p1) (·.status.toBits) = some 0x20001#64 := by decide

/-- Tick 0 of program P1: ACC = 6.0, V = 0.75. -/
theorem test_waveSquare :
    after (exec .waveSquare p1) (fun t => (readPcm t 0, readNorm t 0, t.run.phase, t.count.tickCount)) =
      some (224#8, 0x3F400000#32, 8, 1) := by decide +kernel
/-- Tick 1 of program P1: the phase wraps, V = -0.75. -/
theorem test_waveSquare_wraps :
    after (exec .waveSquare { p1 with run := { p1.run with phase := 8, envStage := 1 } })
      (fun t => (readPcm t 0, readNorm t 0, t.run.phase)) = some (32#8, 0xBF400000#32, 0) := by decide +kernel
/-- Tick 0 of vector OS-19: DUTY = 0.0. -/
theorem test_waveSaw :
    after (exec .waveSaw (busyWith { cfgP1 with duty := 0#64 })) (fun t => (readPcm t 0, t.run.ipp)) =
      some (240#8, 8) := by decide +kernel
/-- A sine tick completes whatever SIN is (R155): the phase, the ring index and the counts move on. -/
theorem test_waveSine :
    after (exec .waveSine p1) (fun t => (t.run.phase, t.run.ipp, t.count.outCount, t.count.tickCount)) =
      some (8, 8, 1, 1) := by decide +kernel
/-- With every table entry 0.25 and no wrap each of eight sub-samples doubles to 0.5: ACC = 4.0, V = 0.5 (R156). -/
theorem test_waveNoise :
    after (exec .waveNoise { p1 with nbuf := Vector.replicate 32 0x3FD0000000000000#64 })
      (fun t => (readPcm t 0, readNorm t 0, t.drawCount)) = some (192#8, 0x3F000000#32, 0) := by decide +kernel
/-- The refill at a wrap takes 32 draws (R150). -/
theorem test_waveNoise_refills :
    after (exec .waveNoise { p1 with run := { p1.run with phase := 8 } }) (fun t => (t.run.phase, t.drawCount)) =
      some (0, 32) := by decide +kernel
/-- Vector EX-3: STATUS = 0x107 and nothing stored. -/
theorem test_waveIllegal :
    after (exec (.waveIllegal 7#32) p1) (fun t => (t.status.toBits, t.count, t.pcm.length, t.run.phase)) =
      some (0x107#64, Counters.zero, 0, 0) := by decide +kernel
/-- Vector EX-2: STATUS = 0x207. -/
theorem test_period_faults :
    after (exec .waveSquare (busyWith
      { cfgP1 with period := 0x4202A05F20000000#64, periodMax := 0x42374876E8000000#64 })) (·.status.toBits) = some 0x207#64 := by decide +kernel
/-- Vector SQ-5: STATUS = 0x26, and the cutoff comes before BAD_WAVE. -/
def cfgCutoff : Cfg :=
  { Cfg.atReset with
    period := 0x4069000000000000#64, periodMax := 0x4059000000000000#64, periodMult := 0x3FF0000000000000#64
    cutoffEn := true, waveType := 7#32 }
theorem test_cutoff :
    after (exec (.waveIllegal 7#32) (busyWith cfgCutoff)) (fun t => (t.status.toBits, t.count.outCount)) =
      some (0x26#64, 0) := by decide +kernel

/-! ## Operations -/

/-- Vector OS-8, with 4294967295.9 and 4294967296.0. -/
theorem test_intPeriod :
    intPeriod 0x41EFFFFFFFFCCCCD#64 = some 4294967295 ∧ intPeriod 0x41F0000000000000#64 = none ∧
    intPeriod 0xC014000000000000#64 = some 8 ∧ intPeriod 0xFFF0000000000000#64 = some 8 := by decide +kernel
/-- Vector FL-2. -/
theorem test_flangerShift :
    flangerShift 0x3FE0000000000000#64 = some 0 ∧ flangerShift 0xBFE0000000000000#64 = some 1 ∧
    flangerShift 0xC09F400000000000#64 = some 1023 ∧ flangerShift 0x7FF0000000000000#64 = some 1023 := by
  decide +kernel
/-- Vectors OU-1, OU-3, OU-5, OU-7. -/
theorem test_quant8 :
    quant8 0xBFF0000000000000#64 = { value := 0, clipped := false, nan := false } ∧
    quant8 0x3FE8000000000000#64 = { value := 224, clipped := false, nan := false } ∧
    quant8 0x3FF0000000000000#64 = { value := 255, clipped := true, nan := false } ∧
    quant16 0xBF50624DD2F1A9FC#64 = { value := -33, clipped := false, nan := false } := by decide +kernel
/-- Vectors OU-10 to OU-14. -/
theorem test_normBits :
    normBits 0x3FB999999999999A#64 = 0x3DCCCCCD#32 ∧ normBits 0x8000000000000000#64 = 0x80000000#32 ∧
    normBits 0x7FF0000000000000#64 = 0x7F800000#32 ∧ normBits 0x36A0000000000000#64 = 0x00000001#32 ∧
    normBits 0x7FF8000000000000#64 = 0x7FC00000#32 := by decide +kernel

/-- The driver's GENERATE, with the cutoff registers: the first reading says BUSY, and after one tick the second says DONE
with FREQ_CUTOFF, STATUS = 0x26 (vector SQ-5, 47_host_driver R224). -/
theorem test_generate :
    (runGenerate [0, 1, 5] { finished with cfg := cfgCutoff }).map (fun t => (t.response, polledEndReason t.response)) =
      some (0x26#64, 2#4) ∧
    (runGenerate [0] { finished with cfg := cfgCutoff }).isNone = true := by decide +kernel
/-- A refused START leaves the old STATE, which ends the loop at its first reading (47_host_driver R224). -/
theorem test_generate_refused :
    (runGenerate [0] { State.reset with cfg := { Cfg.atReset with sampleSize := 12#32 } }).map (·.response) =
      some 0x40000#64 := by decide +kernel

/-- `READ_OUT 2` of the two 8-bit samples of P1, and of two 16-bit samples: -16384 is 0xC000, low byte first (46_output
R206), 16384 is 0x4000 (46_output R209, 47_host_driver R225). -/
theorem test_readOut :
    (runReadOut 2 1 finished).map (·.1) = some { pcm := [224, 32], norm := [0x3F400000#32, 0xBF400000#32] } ∧
    (runReadOut 2 2 { finished with bps := 2, pcm := [(0, 0x00#8), (1, 0xC0#8), (2, 0x00#8), (3, 0x40#8)] }).map (·.1) =
      some { pcm := [-16384, 16384], norm := [0x3F400000#32, 0xBF400000#32] } := by decide
/-- READ_OUT past OUT_COUNT reads 0 and sets ERR_ADDR (20_memory R64, 47_host_driver R225). -/
theorem test_readOut_past :
    (runReadOut 3 1 finished).map (fun p => (p.1.pcm, p.1.norm, p.2.status.errAddr)) =
      some ([224, 32, 0], [0x3F400000#32, 0xBF400000#32, 0#32], true) := by decide

/-! ## States that meet the hypotheses of the statements -/

/-! Encoding. -/

theorem witness_DecodeOfEncode :
    (Instr.regWr 0x000101#24 1#64).wellFormed = true ∧ (Instr.cmdReserved 0#56 0x03#8).wellFormed = true ∧
    (Instr.reservedOp 0x01000000#32).wellFormed = true ∧ (Instr.waveIllegal 4#32).wellFormed = true := by decide
theorem witness_EncodeOfDecode :
    decode .bus [0x20000001#32, 3#32, 9#32, 7#32] = .instr (.cmdReserved 0x09000000#56 3#8) [7#32] := by decide
theorem witness_EveryHeader :
    (0x20FFFFFF#32 : Word).extractLsb' 24 8 = 0x20#8 ∧ (0x21000000#32 : Word).extractLsb' 24 8 ≠ 0x20#8 ∧
    ([7#32] : List Word).length < 2 := by decide
theorem witness_StepRuns_host :
    nextAgent { State.reset with bus := [0x10000002#32] } = .host ∧
    decode .bus [0x10000002#32] = .instr (.regRd 2#24) [] := by decide
theorem witness_StepRuns_idle_host :
    nextAgent State.reset = .host ∧ ∀ i rest, decode .bus State.reset.bus ≠ .instr i rest :=
  ⟨rfl, fun _ _ h => nomatch h⟩
theorem witness_StepRuns_block :
    nextAgent p1 = .block ∧ { State.reset with turns := [.block] }.turns = .block :: [] ∧ p1.turns = [] :=
  ⟨rfl, rfl, rfl⟩

/-! Registers. -/

theorem witness_ResetRegisters :
    mappedIndex 0x00 = true ∧ mappedIndex 0x09 = true ∧ mappedIndex 0x10 = true ∧ mappedIndex 0x2B = true ∧
    mappedIndex 0x30 = true ∧ mappedIndex 0x41 = true := by decide
theorem witness_RegRd :
    mappedIndex (0x00000A#24 : BitVec 24).toNat = false ∧ mappedIndex (0x00000F#24 : BitVec 24).toNat = false ∧
    mappedIndex (0x00002C#24 : BitVec 24).toNat = false ∧ mappedIndex (0x00002F#24 : BitVec 24).toNat = false ∧
    mappedIndex (0x000042#24 : BitVec 24).toNat = false ∧ mappedIndex (0x000110#24 : BitVec 24).toNat = false := by
  decide
theorem witness_CfgWrite :
    cfgIndex (0x10#24 : BitVec 24).toNat = true ∧ cfgIndex (0x2B#24 : BitVec 24).toNat = true ∧
    (0x2B#24 : BitVec 24) ≠ 0x10#24 ∧ finished.status.state ≠ .busy ∧
    ∃ t, exec (.regRd 0x2B#24) finished = .next t ∧ t.response = 8#64 :=
  ⟨by decide, by decide, by decide, by decide, next_of_after (f := (·.response)) (by decide)⟩
/-- Serves LoadRawWritesEveryCfgRegister too. -/
theorem witness_CtrlWrite : State.reset.status.state ≠ .busy := by decide
theorem witness_ReadOnlyWrite :
    (0x00#24 : BitVec 24).toNat = 0x00 ∧
    (0x04 ≤ (0x04#24 : BitVec 24).toNat ∧ (0x0F#24 : BitVec 24).toNat ≤ 0x0F) ∧
    0x2C ≤ (0x2C#24 : BitVec 24).toNat := by decide
theorem witness_BusyWrites :
    p1.status.state = .busy ∧ (0x03#24 : BitVec 24).toNat = 0x03 ∧ cfgIndex (0x10#24 : BitVec 24).toNat = true := by
  decide
theorem witness_Nop : (0xFF00#64 : Reg64).extractLsb' 0 8 = 0x00#8 := by decide
theorem witness_ReservedCommand :
    3 ≤ ((0x03#64 : Reg64).extractLsb' 0 8).toNat ∧ 3 ≤ ((0x1FF#64 : Reg64).extractLsb' 0 8).toNat := by decide
theorem witness_PcmRd :
    finished.count.outCount * finished.bps ≤ (2#24 : BitVec 24).toNat ∧
    (1#24 : BitVec 24).toNat < finished.count.outCount * finished.bps ∧
    cellRead finished.pcm (1#24 : BitVec 24).toNat = some 32#8 := by decide
theorem witness_NormRd :
    finished.count.outCount ≤ (2#24 : BitVec 24).toNat ∧ (1#24 : BitVec 24).toNat < finished.count.outCount ∧
    cellRead finished.norm (1#24 : BitVec 24).toNat = some 0xBF400000#32 := by decide

/-! Host and block. -/

theorem witness_HostTransactions :
    ((Instr.reservedOp 0#32).port = .bus ∧ (Instr.reservedOp 0#32).wellFormed = true ∧
      ∀ hi, Instr.reservedOp 0#32 ≠ .cmdStart hi ∧ Instr.reservedOp 0#32 ≠ .cmdReset hi) ∧
    (Instr.cmdStart 0#56).port = .bus ∧ (Instr.cmdStart 0#56).wellFormed = true ∧ p1.status.state = .busy :=
  ⟨⟨rfl, rfl, fun _ => ⟨nofun, nofun⟩⟩, rfl, rfl, rfl⟩
theorem witness_HostLeaves :
    (Instr.cmdReset 0#56).port = .bus ∧ p1.status.state = .busy ∧
    ∃ t, exec (.cmdReset 0#56) p1 = .next t ∧ t.status.errBusy = true :=
  ⟨rfl, rfl, next_of_after (f := (·.status.errBusy)) (by decide)⟩
/-- P1 with what the host may change changed: a sticky bit, the response, the bus and the turns. -/
def p1Disturbed : State :=
  { p1 with status := { p1.status with errBusy := true }, response := 5#64, bus := [1#32], turns := [.block] }
theorem witness_TicksIgnoreTheHost :
    p1.status.state = .busy ∧ SameRun p1 p1Disturbed ∧
    ∃ t, exec (decodeWave 0#32) p1 = .next t ∧ t.count.outCount = 1 :=
  ⟨rfl, ⟨rfl, rfl, rfl, rfl, rfl⟩, next_of_after (f := (·.count.outCount)) (by decide +kernel)⟩
theorem witness_IdleBlock : finished.status.state ≠ .busy := by decide

/-! The tick. -/

/-- A tick that reaches its sub-samples, with room for its sample and the low-pass off: the hypotheses of the statements
of WAVE_SQUARE, WAVE_SAW, WAVE_SINE, WAVE_NOISE and WAVE_ILLEGAL. -/
theorem witness_ReachesSubSamples : ReachesSubSamples p1 ∧ p1.count.outCount < p1.outDepth ∧ p1.cfg.lpfEn = false :=
  ⟨⟨rfl, by decide, by decide +kernel, by decide +kernel, by decide +kernel, by decide +kernel⟩, by decide, rfl⟩
/-- The noise tick without a wrap, and at the boundary with one. -/
theorem witness_WaveNoise :
    (p1.run.phase + 8 < tickPeriod p1) ∧
    (ReachesSubSamples { p1 with run := { p1.run with phase := 8 } } ∧
      (8 < tickPeriod { p1 with run := { p1.run with phase := 8 } } ∧
        tickPeriod { p1 with run := { p1.run with phase := 8 } } ≤ 8 + 8)) :=
  ⟨by decide +kernel, ⟨rfl, by decide, by decide +kernel, by decide +kernel, by decide +kernel, by decide +kernel⟩,
    by decide +kernel⟩

/-- One state for each check of a tick, in their order: the cap, the cutoff, the integer period, the end of the
envelope. The wave code 4 and the code 3 stand on the two sides of the last check. -/
theorem witness_FirstCheck :
    ({ p1 with count := { p1.count with tickCount := 10 } }.maxTicks ≤ 10) ∧
    (Fp.lt cfgCutoff.periodMax (pitched (busyWith cfgCutoff)).work.period = true ∧ cfgCutoff.cutoffEn = true) ∧
    (intPeriod (vibratoPeriod (modulated (busyWith
      { cfgP1 with period := 0x4202A05F20000000#64, periodMax := 0x42374876E8000000#64 }))) = none) ∧
    (cfgP1.stageLen 2 < 0 + 1 ∧ 2 ≤ 2) ∧ 4 ≤ (4#32 : Word).toNat ∧ ¬ 4 ≤ (3#32 : Word).toNat := by
  decide +kernel
/-- The check of the flanger offset, which is the only one that P1 with a NaN there fails. -/
theorem witness_FirstCheck_flanger :
    periodStop (pitched (busyWith { cfgP1 with flangerOffset := 0x7FF8000000000000#64 })) = false ∧
    Fp.isNaN (Fp.add (enveloped (busyWith { cfgP1 with flangerOffset := 0x7FF8000000000000#64 })).work.flangerOffset
      (busyWith { cfgP1 with flangerOffset := 0x7FF8000000000000#64 }).cfg.flangerSlide) = true :=
  ⟨by decide +kernel, Fp.isNaN_add_left _ (by decide +kernel)⟩
theorem witness_TickCap :
    p1.status.state = .busy ∧
    { p1 with count := { p1.count with tickCount := 10 } }.maxTicks ≤
      { p1 with count := { p1.count with tickCount := 10 } }.count.tickCount := by decide
theorem witness_NormalEnd_tickCap :
    p1.status.state = .busy ∧
    ∃ t, exec (decodeWave 0#32) { p1 with count := { p1.count with tickCount := 10 } } = .next t ∧
      (t.status.state, t.status.endReason) = (.done, .tickCap) :=
  ⟨rfl, next_of_after (f := fun t => (t.status.state, t.status.endReason)) (by decide)⟩
theorem witness_FaultUndoes :
    p1.status.state = .busy ∧ ∃ t, exec (decodeWave 4#32) p1 = .next t ∧ t.status.state = .fault :=
  ⟨rfl, next_of_after (f := (·.status.state)) (by decide +kernel)⟩
/-- P1 in its last tick, the zero-length decay over. -/
def p1Last : State := { p1 with run := { p1.run with envStage := 2, envElapsed := 0 } }
theorem witness_NormalEnd_envEnd :
    p1Last.status.state = .busy ∧ ∃ t, exec (decodeWave 0#32) p1Last = .next t ∧
      (t.status.state, t.status.endReason) = (.done, .envEnd) :=
  ⟨rfl, next_of_after (f := fun t => (t.status.state, t.status.endReason)) (by decide +kernel)⟩
theorem witness_NormalEnd_freqCutoff :
    (busyWith cfgCutoff).status.state = .busy ∧ ∃ t, exec (decodeWave 7#32) (busyWith cfgCutoff) = .next t ∧
      (t.status.state, t.status.endReason) = (.done, .freqCutoff) :=
  ⟨rfl, next_of_after (f := fun t => (t.status.state, t.status.endReason)) (by decide +kernel)⟩
/-- Serves TickLeavesTheRestUnchanged and CompletedTickRegisters: one tick of two, which emits nothing, and one which
does. -/
theorem witness_CompletedTick :
    ReachesSubSamples p1 ∧ (0#32 : Word).toNat < 4 ∧ (3#32 : Word).toNat < 4 ∧
    (∃ t, exec (decodeWave 0#32) p1 = .next t ∧ t.count.outCount = 1) ∧
    (∃ t, exec (decodeWave 0#32) (busyWith { cfgP1 with sampleRate := 22050#32 }) = .next t ∧
      (t.count.outCount, t.run.numSummed) = (0, 1)) :=
  ⟨witness_ReachesSubSamples.1, by decide, by decide,
    next_of_after (f := (·.count.outCount)) (by decide +kernel),
    next_of_after (f := fun t => (t.count.outCount, t.run.numSummed)) (by decide +kernel)⟩

/-! Operations. -/

theorem witness_IntPeriod :
    Fp.isNaN 0x7FF8000000000000#64 = true ∧ Fp.floor 0x7FF0000000000000#64 = .posInf ∧
    Fp.floor 0xFFF0000000000000#64 = .negInf ∧ Fp.floor 0x41EFFFFFFFFCCCCD#64 = .fin 4294967295 ∧
    Fp.floor 0xC014000000000000#64 = .fin (-5) ∧ intPeriod 0x4020000000000000#64 = some 8 := by decide +kernel
/-- A vibrato that is on, and one that is off. -/
theorem witness_Vibrato :
    Fp.lt Fp.zero { cfgP1 with vibAmp := 0x0000000000000001#64 }.vibAmp = true ∧
    Fp.lt Fp.zero p1.cfg.vibAmp = false := by decide
theorem witness_Waveform :
    { p1 with run := { p1.run with phase := 15 } }.run.phase < 16 ∧ 4 ≤ (4#32 : Word).toNat := by decide
theorem witness_SubSample :
    p1.run.ipp < 1024 ∧ (1023 : Nat) ≤ 1023 ∧
    waveform .square 16 (phaseAdvance .square 16 p1) = some 0x3FE0000000000000#64 := by decide +kernel
theorem witness_EnvelopeValue :
    p1.run.envStage = 0 ∧ { p1.run with envStage := 1 }.envStage = 1 ∧ p1Last.run.envStage = 2 := by decide
theorem witness_Swept :
    Fp.isNaN 0x7FF0000000000001#64 = true ∧ Fp.isNaN 0x7FF0000000000000#64 = false ∧
    Fp.lt 0x8000000000000001#64 Fp.zero = true ∧ Fp.lt 0x3EE4F8B588E368F0#64 Fp.tenMicro = true ∧
    Fp.lt Fp.half 0x3FE0000000000001#64 = true ∧ Fp.lt Fp.tenth 0x3FB999999999999B#64 = true ∧
    (Fp.le Fp.zero 0x8000000000000000#64 = true ∧ Fp.le 0x8000000000000000#64 Fp.tenth = true) ∧
    (Fp.le Fp.zero 0x3FE0000000000000#64 = true ∧ Fp.le 0x3FE0000000000000#64 Fp.half = true) ∧
    Fp.le Fp.tenMicro 0x3EE4F8B588E368F1#64 = true ∧ Fp.le 0x3FB999999999999A#64 Fp.tenth = true := by decide +kernel
theorem witness_Quantisers :
    Fp.isNaN 0x7FF8000000000000#64 = true ∧ Fp.isNaN 0x3FF0000000000000#64 = false ∧
    (let t := Fp.mul (Fp.add 0x3FF0000000000000#64 Fp.one) Fp.c128
     Fp.le 0x4070000000000000#64 t = true) ∧
    (let t := Fp.mul (Fp.add 0xBFF0000000000001#64 Fp.one) Fp.c128
     Fp.lt t Fp.zero = true) ∧
    (let t := Fp.mul (Fp.add 0xBFF0000000000000#64 Fp.one) Fp.c128
     Fp.le Fp.zero t = true ∧ Fp.lt t 0x4070000000000000#64 = true) ∧
    Fp.le 0x40E0000000000000#64 (Fp.mul 0x3FF0000000000000#64 Fp.c32768) = true ∧
    Fp.lt (Fp.mul 0xBFF0000000000001#64 Fp.c32768) 0xC0E0000000000000#64 = true ∧
    (let t := Fp.mul 0xBFF0000000000000#64 Fp.c32768
     Fp.le 0xC0E0000000000000#64 t = true ∧ Fp.lt t 0x40E0000000000000#64 = true) := by decide +kernel
theorem witness_Emitted :
    (emit 0x4018000000000000#64 p1).isSome = true ∧ p1.cfg.sampleSize = 8#32 ∧
    (emit 0x4018000000000000#64 (busyWith { cfgP1 with sampleSize := 16#32 })).isSome = true ∧
    (busyWith { cfgP1 with sampleSize := 16#32 }).cfg.sampleSize = 16#32 := by decide +kernel
theorem witness_Decimation :
    p1.run.numSummed + 1 < { cfgP1 with sampleRate := 22050#32 }.summands ∧
    p1.cfg.summands ≤ p1.run.numSummed + 1 := by decide
theorem witness_Rounding : 0 < 3 ∧ Fp.roundMag 52 Fp.infMag 10 3 = 3 ∧ 3 < Fp.infMag := by decide +kernel
/-- A binary32 overflow exactly at its bound, and a tie below it. -/
theorem witness_Rounding_binary32 :
    Fp.isNaN 0x47EFFFFFF0000000#64 = false ∧ Fp.toF32 0x47EFFFFFF0000000#64 = 0x7F800000#32 ∧
    Fp.toF32 0x47EFFFFFEFFFFFFF#64 = 0x7F7FFFFF#32 ∧ Fp.toF32 0xBFF0000010000000#64 = 0xBF800000#32 := by
  decide +kernel
/-- Finite operands, an exact zero sum, a zero divisor, an infinity, a NaN, and the largest exact integer. -/
theorem witness_Arithmetic :
    (Fp.isFinite 0x7FEFFFFFFFFFFFFF#64 = true ∧ Fp.isFinite 0xFFEFFFFFFFFFFFFF#64 = true) ∧
    Fp.value 0x7FEFFFFFFFFFFFFF#64 + Fp.value 0xFFEFFFFFFFFFFFFF#64 = 0 ∧
    Fp.value 0x7FEFFFFFFFFFFFFF#64 - Fp.value 0x7FEFFFFFFFFFFFFF#64 = 0 ∧
    Fp.mag 0x0000000000000001#64 ≠ 0 ∧ Fp.mag 0x8000000000000000#64 = 0 ∧
    Fp.isInf 0xFFF0000000000000#64 = true ∧ Fp.isNaN 0x7FF0000000000001#64 = true ∧ 2 ^ 53 - 1 < 2 ^ 53 := by
  decide +kernel
theorem witness_Comparisons :
    (Fp.isNaN 0x8000000000000000#64 = false ∧ Fp.isInf 0x8000000000000000#64 = false) ∧
    (Fp.isNaN 0x7FEFFFFFFFFFFFFF#64 = false ∧ Fp.isInf 0x7FEFFFFFFFFFFFFF#64 = false) ∧
    Fp.isNaN 0x7FF0000000000001#64 = true := by decide +kernel
theorem witness_Floor :
    Fp.floor 0xBFE0000000000000#64 = .fin (-1) ∧ Fp.isInf 0xFFF0000000000000#64 = true ∧
    Fp.isNaN 0xFFF0000000000000#64 = false := by decide +kernel
theorem witness_Draws : (31 : Nat) < 32 := by decide

/-! Runs. -/

/-- A run in progress that meets the invariant: the hypothesis of StepNeverStops. -/
theorem witness_StateInv_busy : StateInv p1 where
  params := by decide
  memory := by decide
  ticks := by decide
  outputs := by decide
  clips := by decide
  faultTick := by decide
  faultEmpty := by decide
  ended := by decide
  faulted := by decide
  event := by decide
  bpsLegal := by decide
  pcmWritten := fun _ h => absurd h (Nat.not_lt_zero _)
  normWritten := fun _ h => absurd h (Nat.not_lt_zero _)
  noiseRange := by decide +kernel
  stage := by decide
  phase := by decide
  ring := by decide
  repElapsed := by decide
  numSummed := by decide
  running := fun _ =>
    { legal := by decide, bps := by decide, stage := by decide, elapsed := by decide, position := by decide
      summed := by decide, summedBelow := by decide, repeating := by decide, noEvent := by decide }

/-- A finished run that meets the invariant, with IRQ raised. -/
theorem witness_IrqMeansTheRunIsOver : StateInv finished ∧ finished.irq = true where
  left :=
    { params := by decide
      memory := by decide
      ticks := by decide
      outputs := by decide
      clips := by decide
      faultTick := by decide
      faultEmpty := by decide
      ended := by decide
      faulted := by decide
      event := by decide
      bpsLegal := by decide
      pcmWritten := by decide
      normWritten := by decide
      noiseRange := by decide +kernel
      stage := by decide
      phase := by decide
      ring := by decide
      repElapsed := by decide
      numSummed := by decide
      running := fun h => absurd h (by decide) }
  right := by decide
theorem witness_StepKeeps :
    StateInv p1 ∧ ∃ t, step p1 = .next t ∧ t.count.tickCount = 1 :=
  ⟨witness_StateInv_busy, next_of_after (f := (·.count.tickCount)) (by decide +kernel)⟩
/-- The bound of P1 is 6, so after 7 ticks its run is over. -/
theorem witness_EveryRunEnds :
    StateInv p1 ∧ p1.status.state = .busy ∧
    min p1.maxTicks (p1.cfg.envLen0.toNat + p1.cfg.envLen1.toNat + p1.cfg.envLen2.toNat + 2) <
      p1.count.tickCount + 7 := ⟨witness_StateInv_busy, rfl, by decide⟩
theorem witness_Cutoff :
    { finished with cfg := cfgCutoff }.status.state ≠ .busy ∧ 1 ≤ { finished with cfg := cfgCutoff }.maxTicks ∧
    cfgCutoff.legal = true ∧ cfgCutoff.cutoffEn = true ∧
    Fp.lt cfgCutoff.periodMax
      (Fp.mul cfgCutoff.period (Fp.add cfgCutoff.periodMult cfgCutoff.periodMultSlide)) = true := by decide +kernel

end Sys2Proof.Machine
end

namespace Sys2Proof.Fp

/-! ## The grid of finite magnitudes (00_scope R12)

One reading of magnitude bits for both formats, and the rounding of 00_scope R13 without a largest exponent. The
magnitudes rise strictly with their bits, so an exact quotient lies between two neighbours. -/

/-- The units that the magnitude bits `m` stand for in a format with `p` fraction bits. -/
def magUnits (p m : Nat) : Nat :=
  if m < 2 ^ p then m else (2 ^ p + m % 2 ^ p) * 2 ^ (m / 2 ^ p - 1)

theorem units_eq_magUnits (m : Nat) : units m = magUnits 52 m := by
  rw [units, magUnits, pow2_eq]

theorem units32_eq_magUnits (m : Nat) : units32 m = magUnits 23 m := rfl

theorem magUnits_zero (p : Nat) : magUnits p 0 = 0 := if_pos (Nat.two_pow_pos p)

/-- A significand `n` of at most `p + 1` bits, or the power of two above them, times `2 ^ k`. -/
theorem magUnits_mul_add {p k n : Nat} (hn : n ≤ 2 ^ (p + 1)) (hk : k = 0 ∨ 2 ^ p ≤ n) :
    magUnits p (k * 2 ^ p + n) = n * 2 ^ k := by
  have hpos : 0 < 2 ^ p := Nat.two_pow_pos p
  rcases Nat.lt_or_ge n (2 ^ p) with hlt | hge
  · obtain rfl : k = 0 := hk.resolve_right (Nat.not_le.2 hlt)
    simp [magUnits, hlt]
  obtain ⟨j, rfl⟩ := Nat.exists_eq_add_of_le hge
  have hbits : k * 2 ^ p + (2 ^ p + j) = j + (k + 1) * 2 ^ p := by ring
  have hnot : ¬ j + (k + 1) * 2 ^ p < 2 ^ p := by
    rw [Nat.add_mul]; omega
  rw [magUnits, hbits, if_neg hnot, Nat.add_mul_div_right _ _ hpos, Nat.add_mul_mod_self_right]
  rcases Nat.lt_or_ge j (2 ^ p) with hj | hj
  · rw [Nat.mod_eq_of_lt hj, Nat.div_eq_of_lt hj, Nat.zero_add, Nat.add_sub_cancel]
  · obtain rfl : j = 2 ^ p := by rw [pow_succ] at hn; omega
    rw [Nat.mod_self, Nat.div_self hpos, Nat.add_comm 1, Nat.add_sub_cancel]
    ring

/-- Magnitude bits are an exponent and a significand of at most `p + 1` bits. -/
theorem exists_exponent_significand (p m : Nat) :
    ∃ k n, m = k * 2 ^ p + n ∧ n < 2 ^ (p + 1) ∧ (k = 0 ∨ 2 ^ p ≤ n) := by
  have hpos : 0 < 2 ^ p := Nat.two_pow_pos p
  have hdm := Nat.div_add_mod' m (2 ^ p)
  have hmod := Nat.mod_lt m hpos
  rcases hq : m / 2 ^ p with _ | k
  · rw [hq] at hdm
    exact ⟨0, m, by omega, by rw [pow_succ]; omega, .inl rfl⟩
  · rw [hq, Nat.add_mul] at hdm
    exact ⟨k, 2 ^ p + m % 2 ^ p, by omega, by rw [pow_succ]; omega, .inr (Nat.le_add_right _ _)⟩

theorem magUnits_strictMono (p : Nat) : StrictMono (magUnits p) := by
  refine strictMono_nat_of_lt_succ fun m => ?_
  obtain ⟨k, n, rfl, hn, hk⟩ := exists_exponent_significand p m
  rw [Nat.add_assoc, magUnits_mul_add hn.le hk, magUnits_mul_add hn (hk.imp_right Nat.le_succ_of_le)]
  exact Nat.mul_lt_mul_of_pos_right n.lt_succ_self (Nat.two_pow_pos k)

theorem units_strictMono : StrictMono units := by
  rw [funext units_eq_magUnits]; exact magUnits_strictMono 52

@[simp] theorem units_zero : units 0 = 0 := rfl

/-! ## Rounding picks one of the two neighbours (00_scope R13) -/

/-- The exponent that leaves `q` at most `p + 1` significant bits. -/
def roundExp (p q : Nat) : Nat := if q < 2 ^ (p + 1) then 0 else Nat.log2 q - p

/-- `roundMag` before the cut at infinity. -/
def roundUnbounded (p num den : Nat) : Nat :=
  roundExp p (num / den) * 2 ^ p + roundNearestEven num (den * pow2 (roundExp p (num / den)))

theorem roundMag_eq_min (p inf num den : Nat) : roundMag p inf num den = min inf (roundUnbounded p num den) := rfl

theorem roundExp_significand (p q : Nat) :
    q / 2 ^ roundExp p q < 2 ^ (p + 1) ∧ (roundExp p q = 0 ∨ 2 ^ p ≤ q / 2 ^ roundExp p q) := by
  unfold roundExp
  split
  · next hsmall => exact ⟨by simpa using hsmall, .inl rfl⟩
  · next hlarge =>
    have hq : q ≠ 0 := fun h => hlarge (h ▸ Nat.two_pow_pos _)
    have hlog : p + 1 ≤ Nat.log2 q := (Nat.le_log2 hq).2 (Nat.not_lt.1 hlarge)
    have hexp : q.log2 - p + p = q.log2 := by omega
    refine ⟨(Nat.div_lt_iff_lt_mul (Nat.two_pow_pos _)).2 ?_,
      .inr ((Nat.le_div_iff_mul_le (Nat.two_pow_pos _)).2 ?_)⟩
    · rw [← pow_add, show p + 1 + (q.log2 - p) = q.log2 + 1 by omega]
      exact Nat.lt_log2_self
    · rw [← pow_add, Nat.add_comm, hexp]
      exact Nat.log2_self_le hq

/-- Below the midpoint of two integers the lower one, above it the upper one, and the even one at the midpoint. -/
theorem roundNearestEven_cases (num : Nat) {den : Nat} (hden : 0 < den) :
    let q := num / den
    (roundNearestEven num den = q ∧
      (2 * num < (q + (q + 1)) * den ∨ 2 * num = (q + (q + 1)) * den ∧ q % 2 = 0)) ∨
    (roundNearestEven num den = q + 1 ∧
      ((q + (q + 1)) * den < 2 * num ∨ 2 * num = (q + (q + 1)) * den ∧ q % 2 = 1)) := by
  intro q
  have hmod : num % den < den := Nat.mod_lt _ hden
  have hnum : q * den + num % den = num := Nat.div_add_mod' num den
  have hmid : (q + (q + 1)) * den = 2 * (q * den) + den := by ring
  have hround : roundNearestEven num den = if 2 * (num % den) < den then q
      else if den < 2 * (num % den) then q + 1 else q + q % 2 := rfl
  rw [hmid, hround]
  generalize q * den = lower at *
  split
  · omega
  · split <;> omega

/-- `num / den` lies at `m` or between `m` and its upper neighbour, and `r` is the nearer of the two, the even one at the
midpoint. -/
structure RoundsBetween (p num den m r : Nat) : Prop where
  lower : magUnits p m * den ≤ num
  upper : num < magUnits p (m + 1) * den
  choice :
    (r = m ∧ (2 * num < (magUnits p m + magUnits p (m + 1)) * den ∨
      2 * num = (magUnits p m + magUnits p (m + 1)) * den ∧ m % 2 = 0)) ∨
    (r = m + 1 ∧ ((magUnits p m + magUnits p (m + 1)) * den < 2 * num ∨
      2 * num = (magUnits p m + magUnits p (m + 1)) * den ∧ m % 2 = 1))

theorem roundsBetween_roundUnbounded {p den : Nat} (hp : 0 < p) (hden : 0 < den) (num : Nat) :
    ∃ m, RoundsBetween p num den m (roundUnbounded p num den) := by
  obtain ⟨hlt, hk⟩ := roundExp_significand p (num / den)
  have hdef : roundUnbounded p num den = roundExp p (num / den) * 2 ^ p +
      roundNearestEven num (den * 2 ^ roundExp p (num / den)) := by rw [roundUnbounded, pow2_eq]
  generalize roundExp p (num / den) = k at *
  have hstep : 0 < den * 2 ^ k := Nat.mul_pos hden (Nat.two_pow_pos k)
  rw [Nat.div_div_eq_div_mul] at hlt hk
  have hcases := roundNearestEven_cases num hstep
  have hlower := Nat.div_mul_le_self num (den * 2 ^ k)
  have hupper := (Nat.div_lt_iff_lt_mul hstep).1 (num / (den * 2 ^ k)).lt_succ_self
  generalize num / (den * 2 ^ k) = n at *
  have hthis : magUnits p (k * 2 ^ p + n) = n * 2 ^ k := magUnits_mul_add hlt.le hk
  have hnext : magUnits p (k * 2 ^ p + n + 1) = (n + 1) * 2 ^ k :=
    magUnits_mul_add hlt (hk.imp_right Nat.le_succ_of_le)
  have hparity : (k * 2 ^ p + n) % 2 = n % 2 := by
    obtain ⟨j, rfl⟩ := Nat.exists_eq_add_of_lt hp
    rw [show k * 2 ^ (0 + j + 1) + n = n + 2 * (k * 2 ^ j) by ring, Nat.add_mul_mod_self_left]
  refine ⟨k * 2 ^ p + n, ?_, ?_, ?_⟩
  · rw [hthis]; linarith
  · rw [hnext]; linarith
  · rw [hthis, hnext, hdef, hparity, ← Nat.add_mul, Nat.mul_assoc _ _ den, Nat.mul_comm _ den, Nat.add_assoc,
      Nat.add_left_cancel_iff, Nat.add_left_cancel_iff]
    exact hcases

namespace RoundsBetween

variable {p num den m r : Nat}

/-- A magnitude with even bits is reached exactly from the midpoint below it on. -/
theorem succ_le_iff (h : RoundsBetween p num den m r) {n : Nat} (hodd : n % 2 = 1) :
    n + 1 ≤ r ↔ (magUnits p n + magUnits p (n + 1)) * den ≤ 2 * num := by
  have hmono : ∀ {a b}, a ≤ b → magUnits p a * den ≤ magUnits p b * den := fun hab =>
    Nat.mul_le_mul_right den ((magUnits_strictMono p).monotone hab)
  obtain ⟨hlower, hupper, hchoice⟩ := h
  simp only [Nat.add_mul] at *
  rcases Nat.lt_trichotomy n m with hlt | rfl | hgt
  · have h1 := hmono hlt.le
    have h2 : magUnits p (n + 1) * den ≤ magUnits p m * den := hmono hlt
    omega
  · omega
  · have h1 : magUnits p (m + 1) * den ≤ magUnits p n * den := hmono hgt
    have h2 : magUnits p n * den ≤ magUnits p (n + 1) * den := hmono n.le_succ
    omega

/-- No magnitude lies nearer to the quotient, and another one as near only if the chosen bits are even. -/
theorem nearest (h : RoundsBetween p num den m r) (hden : 0 < den) (n : Nat) :
    |(num : Int) - (magUnits p r * den : Nat)| ≤ |(num : Int) - (magUnits p n * den : Nat)| ∧
    (n ≠ r → |(num : Int) - (magUnits p r * den : Nat)| = |(num : Int) - (magUnits p n * den : Nat)| →
      r % 2 = 0) := by
  have hmono : ∀ {a b}, a < b → magUnits p a * den < magUnits p b * den := fun hab =>
    Nat.mul_lt_mul_of_pos_right (magUnits_strictMono p hab) hden
  obtain ⟨hlower, hupper, hchoice⟩ := h
  simp only [Nat.add_mul, Int.abs_eq_natAbs] at *
  have hbelow : n < m → magUnits p n * den < magUnits p m * den := hmono
  have habove : m + 1 < n → magUnits p (m + 1) * den < magUnits p n * den := hmono
  have hplace : n < m ∨ n = m ∨ n = m + 1 ∨ m + 1 < n := by omega
  rcases hchoice with ⟨rfl, hnear⟩ | ⟨rfl, hnear⟩ <;> rcases hplace with hn | rfl | rfl | hn <;> omega

end RoundsBetween

/-- Of all magnitude bits, those of an infinity and those past it included, a result below infinity is the nearest. -/
theorem roundMag_nearest {p inf num den : Nat} (hp : 0 < p) (hden : 0 < den) (hlt : roundMag p inf num den < inf)
    (n : Nat) :
    let r := roundMag p inf num den
    |(num : Int) - (magUnits p r * den : Nat)| ≤ |(num : Int) - (magUnits p n * den : Nat)| ∧
    (n ≠ r → |(num : Int) - (magUnits p r * den : Nat)| = |(num : Int) - (magUnits p n * den : Nat)| →
      r % 2 = 0) := by
  obtain ⟨m, hbetween⟩ := roundsBetween_roundUnbounded hp hden num
  have huncut : roundMag p inf num den = roundUnbounded p num den := by
    rw [roundMag_eq_min] at hlt ⊢
    exact min_eq_right (not_lt.1 fun h => hlt.ne (min_eq_left h.le))
  rw [huncut]
  exact hbetween.nearest hden n

/-- With the magnitude bits of infinity at exponent `j + 2`, infinity is reached from half a unit above the largest finite
magnitude on. -/
theorem roundMag_eq_top_iff {p j den : Nat} (hp : 0 < p) (hden : 0 < den) (num : Nat) :
    roundMag p ((j + 2) * 2 ^ p + 2 ^ p) num den = (j + 2) * 2 ^ p + 2 ^ p ↔
      (2 ^ (p + 2) - 1) * pow2 j * den ≤ num := by
  obtain ⟨m, hbetween⟩ := roundsBetween_roundUnbounded hp hden num
  have hhalf : 2 ^ (p + 1) = 2 * 2 ^ p := by ring
  have hpos : 0 < 2 ^ p := Nat.two_pow_pos p
  have htop : (j + 2) * 2 ^ p + 2 ^ p = (j + 1) * 2 ^ p + (2 ^ (p + 1) - 1) + 1 := by
    rw [Nat.add_mul, Nat.add_mul]; omega
  have hodd : ((j + 1) * 2 ^ p + (2 ^ (p + 1) - 1)) % 2 = 1 := by
    obtain ⟨i, rfl⟩ := Nat.exists_eq_add_of_lt hp
    rw [show 2 ^ (0 + i + 1) = 2 * 2 ^ i by ring] at *
    rw [Nat.mul_left_comm]; omega
  have hlargest : magUnits p ((j + 1) * 2 ^ p + (2 ^ (p + 1) - 1)) = (2 ^ (p + 1) - 1) * 2 ^ (j + 1) :=
    magUnits_mul_add (Nat.sub_le _ _) (.inr (by omega))
  have hinf : magUnits p ((j + 1) * 2 ^ p + (2 ^ (p + 1) - 1) + 1) = 2 ^ (p + 1) * 2 ^ (j + 1) := by
    rw [Nat.add_assoc, Nat.sub_add_cancel (Nat.two_pow_pos _)]
    exact magUnits_mul_add le_rfl (.inr (by omega))
  have hmid : (2 ^ (p + 1) - 1) * 2 ^ (j + 1) + 2 ^ (p + 1) * 2 ^ (j + 1) = 2 * ((2 ^ (p + 2) - 1) * 2 ^ j) := by
    rw [← Nat.add_mul, show 2 ^ (p + 1) - 1 + 2 ^ (p + 1) = 2 ^ (p + 2) - 1 by rw [pow_succ _ (p + 1)]; omega]
    ring
  have hiff := hbetween.succ_le_iff hodd
  rw [hlargest, hinf, hmid, Nat.mul_assoc 2, Nat.mul_le_mul_left_iff two_pos, ← htop] at hiff
  rw [roundMag_eq_min, min_eq_left_iff, hiff, pow2_eq]

theorem roundMag_eq_infMag_iff (num : Nat) {den : Nat} (hden : 0 < den) :
    roundMag 52 infMag num den = infMag ↔ (2 ^ 54 - 1) * pow2 2044 * den ≤ num := by
  rw [show infMag = (2044 + 2) * 2 ^ 52 + 2 ^ 52 from rfl]
  exact roundMag_eq_top_iff (by decide) hden num

theorem roundMag_eq_infMag32_iff (num : Nat) {den : Nat} (hden : 0 < den) :
    roundMag 23 (255 * 2 ^ 23) num den = 255 * 2 ^ 23 ↔ (2 ^ 25 - 1) * pow2 252 * den ≤ num := by
  rw [show 255 * 2 ^ 23 = (252 + 2) * 2 ^ 23 + 2 ^ 23 from rfl]
  exact roundMag_eq_top_iff (by decide) hden num

theorem pow2_pos (n : Nat) : 0 < pow2 n := pow2_eq n ▸ Nat.two_pow_pos n

theorem unitsPerOne_pos : 0 < unitsPerOne := pow2_pos 1074

theorem unitsPerUnit32_pos : 0 < unitsPerUnit32 := pow2_pos 925

/-! ## to_f32 (46_output R205) -/

/-- The magnitude bits that `toF32` packs under the sign. -/
def toF32Mag (x : F64) : Nat :=
  if isInf x then 255 * 2 ^ 23 else roundMag 23 (255 * 2 ^ 23) (units (mag x)) unitsPerUnit32

theorem toF32Mag_le (x : F64) : toF32Mag x ≤ 255 * 2 ^ 23 := by
  unfold toF32Mag
  split
  · exact le_rfl
  · exact roundMag_le _ _ _ _

theorem toNat_toF32 (x : F64) : (toF32 x).toNat = if sign x then 2 ^ 31 + toF32Mag x else toF32Mag x := by
  have hle := toF32Mag_le x
  rw [show toF32 x = BitVec.ofNat 32 (if sign x then 2 ^ 31 + toF32Mag x else toF32Mag x) from rfl,
    BitVec.toNat_ofNat]
  split <;> omega

theorem toNat_toF32_mod (x : F64) : (toF32 x).toNat % 2 ^ 31 = toF32Mag x := by
  have hle := toF32Mag_le x
  rw [toNat_toF32]
  split <;> omega

theorem getLsbD_toF32_sign (x : F64) : (toF32 x).getLsbD 31 = sign x := by
  have hle := toF32Mag_le x
  rw [← BitVec.msb_eq_getLsbD_last, BitVec.msb_eq_decide, toNat_toF32]
  cases sign x
  · simpa using Nat.lt_of_le_of_lt hle (by decide)
  · simp

/-- Settles O48: the rounded magnitude is one of the quotient's two neighbours, and infinity's bits are even. -/
theorem roundingIsToNearestEven : Obligations.RoundingIsToNearestEven := by
  unfold Obligations.RoundingIsToNearestEven
  constructor
  · intro num den hden r
    refine ⟨roundMag_eq_infMag_iff num hden, fun hlt m _ => ?_⟩
    simp only [units_eq_magUnits]
    exact roundMag_nearest (by decide) hden hlt m
  · intro x _ r v
    rw [show r = toF32Mag x from toNat_toF32_mod x]
    refine ⟨getLsbD_toF32_sign x, toF32Mag_le x, ?_, fun hlt m _ => ?_⟩
    · unfold toF32Mag
      split
      · next hinf => simp [hinf]
      · next hfin => rw [roundMag_eq_infMag32_iff _ unitsPerUnit32_pos]; simp [hfin, v]
    · have hfin : ¬ isInf x = true := fun hinf => hlt.ne (if_pos hinf)
      rw [toF32Mag, if_neg hfin] at hlt ⊢
      simp only [units32_eq_magUnits]
      exact roundMag_nearest (by decide) unitsPerUnit32_pos hlt m

/-! ## The order of patterns is that of their values (00_scope R14) -/

/-- Values stand in the order of the keys, since magnitudes stand in the order of their bits. -/
theorem value_lt_iff (a b : F64) : value a < value b ↔ key a < key b := by
  have hpos : ∀ m, 0 < units m ↔ 0 < m := fun m => units_strictMono.lt_iff_lt (a := 0)
  have hab := units_strictMono.lt_iff_lt (a := mag a) (b := mag b)
  have hba := units_strictMono.lt_iff_lt (a := mag b) (b := mag a)
  have ha := hpos (mag a)
  have hb := hpos (mag b)
  unfold value key
  split <;> split <;> omega

theorem value_le_iff (a b : F64) : value a ≤ value b ↔ key a ≤ key b := by
  rw [← not_lt, value_lt_iff, not_lt]

theorem value_eq_iff (a b : F64) : value a = value b ↔ key a = key b := by
  rw [le_antisymm_iff, value_le_iff, value_le_iff, ← le_antisymm_iff]

section NotNaN

variable {a b : F64}

theorem lt_iff_key (ha : isNaN a = false) (hb : isNaN b = false) : lt a b = true ↔ key a < key b := by
  simp [lt, ha, hb]

theorem le_iff_key (ha : isNaN a = false) (hb : isNaN b = false) : le a b = true ↔ key a ≤ key b := by
  simp [le, ha, hb]

theorem eq_iff_key (ha : isNaN a = false) (hb : isNaN b = false) : eq a b = true ↔ key a = key b := by
  simp [eq, ha, hb]

end NotNaN

theorem eq_operands_comm (a b : F64) : eq a b = eq b a := by
  simp only [eq, Bool.and_comm (!isNaN a), Eq.comm (a := key a)]

theorem eq_nan {a b : F64} (h : isNaN a = true ∨ isNaN b = true) : eq a b = false := by
  rcases h with h | h <;> simp [eq, h]

/-- The keys of the patterns that are not NaN end at the infinities, and no other pattern has an infinity's key. -/
theorem key_bounds {a : F64} (ha : isNaN a = false) :
    (-(infMag : Int) ≤ key a ∧ key a ≤ infMag) ∧
    (key a = infMag ↔ a = 0x7FF0000000000000#64) ∧ (key a = -(infMag : Int) ↔ a = 0xFFF0000000000000#64) := by
  have hlt := a.isLt
  simp only [isNaN, decide_eq_false_iff_not, not_lt, infMag_eq, mag] at ha
  simp only [key, sign, mag, infMag_eq, ← BitVec.toNat_inj, BitVec.toNat_ofNat, decide_eq_true_eq]
  split <;> omega

/-- Settles O50: comparing keys is comparing values, and the infinities' keys are the two ends. -/
theorem comparisonsFollowTheValues : Obligations.ComparisonsFollowTheValues := by
  unfold Obligations.ComparisonsFollowTheValues
  intro a b
  refine ⟨fun ha _ hb _ => ?_, fun ha => ?_, eq_operands_comm a b, ?_, fun h => ?_⟩
  · rw [value_lt_iff, value_le_iff, value_eq_iff]
    exact ⟨lt_iff_key ha hb, le_iff_key ha hb, eq_iff_key ha hb⟩
  · intro top bottom
    have htop : isNaN top = false := by decide
    have hbottom : isNaN bottom = false := by decide
    have hkeyTop : key top = infMag := by decide
    have hkeyBottom : key bottom = -(infMag : Int) := by decide
    obtain ⟨⟨hlower, hupper⟩, heqTop, heqBottom⟩ := key_bounds ha
    simp only [← Bool.not_eq_true, lt_iff_key, le_iff_key, eq_iff_key, ha, htop, hbottom, hkeyTop, hkeyBottom,
      not_lt]
    exact ⟨hupper.lt_iff_ne.trans heqTop.not, hupper, hupper, hupper.ge_iff_eq.trans heqTop,
      hlower.lt_iff_ne'.trans heqBottom.not, hlower, hlower, hlower.ge_iff_eq'.trans heqBottom, heqTop, heqBottom⟩
  · simp [ne]
  · have heq := eq_nan h
    refine ⟨?_, ?_, heq, by rw [ne, heq, Bool.not_false]⟩
    · exact h.elim (lt_nan_left b) (lt_nan_right a)
    · exact h.elim (le_nan_left b) (le_nan_right a)

/-! ## Floor (00_scope R15) -/

section FloorCases

variable {x : F64}

theorem floor_of_isInf (hnan : isNaN x = false) (hinf : isInf x = true) :
    floor x = if sign x then .negInf else .posInf := by
  simp [floor, hnan, hinf]

theorem floor_of_finite (hnan : isNaN x = false) (hinf : isInf x = false) :
    floor x = .fin (value x / (unitsPerOne : Int)) := by
  simp [floor, hnan, hinf]

end FloorCases

/-- An integer as the floor means a finite pattern, and the quotient of its value. -/
theorem floor_eq_fin_iff (x : F64) (k : Int) :
    floor x = .fin k ↔ (isNaN x = false ∧ isInf x = false) ∧ value x / (unitsPerOne : Int) = k := by
  cases hnan : isNaN x with
  | true => simp [(floor_eq_nan x).2 hnan]
  | false =>
    cases hinf : isInf x with
    | true => rw [floor_of_isInf hnan hinf]; cases sign x <;> simp
    | false => simp [floor_of_finite hnan hinf]

/-- Settles O51: Euclidean division by the positive unit is the floor of the quotient. -/
theorem floorIsTheGreatestIntegerBelow : Obligations.FloorIsTheGreatestIntegerBelow := by
  unfold Obligations.FloorIsTheGreatestIntegerBelow
  intro x
  have hpos : 0 < (unitsPerOne : Int) := Int.natCast_pos.2 unitsPerOne_pos
  refine ⟨fun k hk => ?_, ?_, floor_eq_nan x, fun hinf hnan => floor_of_isInf hnan hinf⟩
  · obtain ⟨-, rfl⟩ := (floor_eq_fin_iff x k).1 hk
    exact ⟨Int.ediv_mul_le _ hpos.ne', Int.lt_ediv_add_one_mul_self _ hpos⟩
  · simp [floor_eq_fin_iff]

/-! ## The four operators round the exact result (00_scope R13) -/

/-- `n` under a sign, as `value` reads a pattern. -/
def signed (neg : Bool) (n : Nat) : Int := if neg then -(n : Int) else (n : Int)

theorem value_eq_signed (x : F64) : value x = signed (sign x) (units (mag x)) := rfl

@[simp] theorem natAbs_signed (s : Bool) (n : Nat) : (signed s n).natAbs = n := by
  cases s <;> simp [signed]

theorem signed_neg {s : Bool} {n : Nat} (h : signed s n < 0) : s = true := by
  cases s
  · exact absurd h (Int.natCast_nonneg n).not_gt
  · rfl

theorem signed_pos {s : Bool} {n : Nat} (h : 0 < signed s n) : s = false := by
  cases s
  · rfl
  · exact absurd h (Int.neg_natCast_le_natCast n 0).not_gt

/-- An integer is its magnitude under its own sign, and zero is so under either sign. -/
theorem signed_natAbs {v : Int} {s : Bool} (hs : v ≠ 0 → s = decide (v < 0)) : signed s v.natAbs = v := by
  rcases lt_trichotomy v 0 with hneg | rfl | hpos
  · rw [hs hneg.ne, decide_eq_true hneg, signed, if_pos rfl]; omega
  · cases s <;> rfl
  · rw [hs hpos.ne', decide_eq_false hpos.not_gt, signed, if_neg Bool.false_ne_true]; omega

theorem signed_mul_natCast (s : Bool) (m n : Nat) : signed s m * (n : Int) = signed s (m * n) := by
  cases s <;> simp [signed]

theorem signed_mul_signed (s s' : Bool) (m n : Nat) : signed s m * signed s' n = signed (s != s') (m * n) := by
  cases s <;> cases s' <;> simp [signed]

theorem neg_signed (s : Bool) (n : Nat) : -signed s n = signed (!s) n := by
  cases s <;> simp [signed]

/-- The distance of two values of the same sign is that of their magnitudes. -/
theorem abs_signed_sub_signed_same (s : Bool) (m n : Nat) : |signed s m - signed s n| = |(m : Int) - n| := by
  cases s
  · rfl
  · rw [signed, signed, if_pos rfl, if_pos rfl, neg_sub_neg, abs_sub_comm]

/-- The distance of two values of opposite signs is the sum of their magnitudes. -/
theorem abs_signed_sub_signed_not (s : Bool) (m n : Nat) : |signed s m - signed (!s) n| = (m : Int) + n := by
  rw [← neg_signed, sub_neg_eq_add, Int.abs_eq_natAbs]
  unfold signed
  split <;> omega

section Pack

variable {m : Nat}

theorem lt_signBit_of_le_infMag (hm : m ≤ infMag) : m < 2 ^ 63 := Nat.lt_of_le_of_lt hm (by decide)

theorem value_pack (s : Bool) (hm : m ≤ infMag) : value (pack s m) = signed s (units m) := by
  have hlt := lt_signBit_of_le_infMag hm
  rw [value_eq_signed, sign_pack s hlt, mag_pack s hlt]

theorem isInf_pack (s : Bool) (hm : m ≤ infMag) : isInf (pack s m) = true ↔ m = infMag := by
  rw [isInf, mag_pack s (lt_signBit_of_le_infMag hm), beq_iff_eq]

theorem isInf_pack_infMag (s : Bool) : isInf (pack s infMag) = true := (isInf_pack s le_rfl).2 rfl

theorem sign_pack_infMag (s : Bool) : sign (pack s infMag) = s := sign_pack s (by decide)

end Pack

theorem sign_round64 (s : Bool) (num den : Nat) : sign (round64 s num den) = s :=
  sign_pack s (lt_signBit_of_le_infMag (roundMag_le _ _ _ _))

theorem mag_round64 (s : Bool) (num den : Nat) : mag (round64 s num den) = roundMag 52 infMag num den :=
  mag_pack s (lt_signBit_of_le_infMag (roundMag_le _ _ _ _))

/-- A rounded pattern is at least as near as any finite magnitude under either sign. A magnitude of the other sign lies at
least as far away as zero does. -/
theorem round64_nearest {num den : Nat} {s : Bool} (hden : 0 < den) (hlt : roundMag 52 infMag num den < infMag)
    (s' : Bool) (m : Nat) :
    let r := roundMag 52 infMag num den
    |signed s num - signed s (units r * den)| ≤ |signed s num - signed s' (units m * den)| ∧
    (signed s' (units m) ≠ signed s (units r) →
      |signed s num - signed s (units r * den)| = |signed s num - signed s' (units m * den)| → r % 2 = 0) := by
  intro r
  have hnear := fun n => roundMag_nearest (num := num) (by decide : 0 < 52) hden hlt n
  simp only [← units_eq_magUnits] at hnear
  rw [abs_signed_sub_signed_same]
  rcases Bool.eq_or_eq_not s' s with rfl | rfl
  · rw [abs_signed_sub_signed_same]
    exact ⟨(hnear m).1, fun hne => (hnear m).2 (mt (congrArg fun n => signed s' (units n)) hne)⟩
  · rw [abs_signed_sub_signed_not]
    obtain ⟨hzero, heven⟩ := hnear 0
    rw [units_zero, Nat.zero_mul, Nat.cast_zero, sub_zero, abs_of_nonneg (Int.natCast_nonneg num)] at hzero heven
    refine ⟨hzero.trans (Int.le_add_of_nonneg_right (Int.natCast_nonneg _)), fun _ heq => ?_⟩
    rcases Nat.eq_zero_or_pos r with hr | hr
    · rw [hr]
    · exact heven hr.ne (le_antisymm hzero (heq ▸ Int.le_add_of_nonneg_right (Int.natCast_nonneg _)))

/-- Rounding a magnitude under a sign rounds the signed value. -/
theorem roundsTo_round64 (s : Bool) (num : Nat) {den : Nat} (hden : 0 < den) :
    RoundsTo (signed s num) den (round64 s num den) := by
  have hle := roundMag_le 52 infMag num den
  have hnear : isInf (round64 s num den) = false → ∀ c,
      |signed s num - value (round64 s num den) * den| ≤ |signed s num - value c * den| ∧
      (value c ≠ value (round64 s num den) →
        |signed s num - value (round64 s num den) * den| = |signed s num - value c * den| →
        mag (round64 s num den) % 2 = 0) := by
    intro hfin c
    have hlt : roundMag 52 infMag num den < infMag :=
      hle.lt_of_ne fun h => Bool.false_ne_true (hfin.symm.trans ((isInf_pack s hle).2 h))
    rw [mag_round64, round64, value_pack s hle, value_eq_signed c, signed_mul_natCast, signed_mul_natCast]
    exact round64_nearest hden hlt _ _
  exact
    { notNaN := isNaN_round64 _ _ _
      negative := fun h => (sign_round64 _ _ _).trans (signed_neg h)
      positive := fun h => (sign_round64 _ _ _).trans (signed_pos h)
      overflow := by
        rw [natAbs_signed]; exact (isInf_pack s hle).trans (roundMag_eq_infMag_iff _ hden)
      nearest := fun hfin c _ => (hnear hfin c).1
      even := fun hfin c _ => (hnear hfin c).2 }

/-! ### Finite operands -/

section Operands

variable {a b x : F64}

theorem isNaN_of_isFinite (h : isFinite x = true) : isNaN x = false := by
  simp only [isFinite, isNaN, decide_eq_true_eq, decide_eq_false_iff_not] at *
  exact h.not_gt

theorem isInf_of_isFinite (h : isFinite x = true) : isInf x = false := by
  simp only [isFinite, isInf, decide_eq_true_eq, beq_eq_false_iff_ne] at *
  exact h.ne

theorem mag_of_isInf (h : isInf x = true) : mag x = infMag := beq_iff_eq.1 h

theorem isNaN_of_isInf (h : isInf x = true) : isNaN x = false := by
  rw [isNaN, mag_of_isInf h]; exact decide_eq_false (lt_irrefl _)

theorem mag_ne_zero_of_isInf (h : isInf x = true) : mag x ≠ 0 := by
  rw [mag_of_isInf h]; decide

@[simp] theorem mag_neg (x : F64) : mag (neg x) = mag x := mag_pack _ (mag_lt x)

@[simp] theorem sign_neg (x : F64) : sign (neg x) = !sign x := sign_pack _ (mag_lt x)

theorem value_neg (x : F64) : value (neg x) = -value x := by
  rw [value_eq_signed, value_eq_signed, sign_neg, mag_neg, neg_signed]

/-- The sign of a sum: that of the exact value, and for an exact zero minus under two minus signs. -/
def sumSign (a b : F64) : Bool :=
  if value a + value b = 0 then sign a && sign b else decide (value a + value b < 0)

theorem addFinite_eq_round64 (a b : F64) :
    addFinite a b = round64 (sumSign a b) (value a + value b).natAbs 1 := by
  by_cases hzero : value a + value b = 0
  · simp only [addFinite, sumSign, hzero]; rfl
  · simp only [addFinite, sumSign, if_neg hzero]

theorem roundsTo_addFinite (a b : F64) : RoundsTo (value a + value b) 1 (addFinite a b) := by
  have hsigned : signed (sumSign a b) (value a + value b).natAbs = value a + value b :=
    signed_natAbs fun hne => if_neg hne
  have hrounds := roundsTo_round64 (sumSign a b) (value a + value b).natAbs one_pos
  rwa [hsigned, ← addFinite_eq_round64] at hrounds

theorem sign_addFinite_of_zero (h : value a + value b = 0) : sign (addFinite a b) = (sign a && sign b) := by
  rw [addFinite_eq_round64, sign_round64, sumSign, if_pos h]

variable (ha : isFinite a = true) (hb : isFinite b = true)
include ha hb

theorem add_of_isFinite : add a b = addFinite a b := by
  simp [add, isNaN_of_isFinite ha, isNaN_of_isFinite hb, isInf_of_isFinite ha, isInf_of_isFinite hb]

theorem sub_of_isFinite : sub a b = addFinite a (neg b) := by
  simp [sub, isNaN_of_isFinite ha, isNaN_of_isFinite hb, isInf_of_isFinite ha, isInf_of_isFinite hb]

theorem mul_of_isFinite :
    mul a b = round64 (sign a != sign b) (units (mag a) * units (mag b)) unitsPerOne := by
  simp [mul, isNaN_of_isFinite ha, isNaN_of_isFinite hb, isInf_of_isFinite ha, isInf_of_isFinite hb]

theorem div_of_isFinite (hzero : mag b ≠ 0) :
    div a b = round64 (sign a != sign b) (units (mag a) * unitsPerOne) (units (mag b)) := by
  simp [div, isNaN_of_isFinite ha, isNaN_of_isFinite hb, isInf_of_isFinite ha, isInf_of_isFinite hb, hzero]

theorem roundsTo_mul : RoundsTo (value a * value b) unitsPerOne (mul a b) := by
  rw [mul_of_isFinite ha hb, value_eq_signed, value_eq_signed, signed_mul_signed]
  exact roundsTo_round64 _ _ unitsPerOne_pos

/-- Dividing by a pattern is dividing by its magnitude and giving its sign to the quotient. -/
theorem roundsTo_div (hzero : mag b ≠ 0) :
    RoundsTo ((if sign b then -value a else value a) * unitsPerOne) (units (mag b)) (div a b) := by
  have hnum : (if sign b then -value a else value a) * (unitsPerOne : Int) =
      signed (sign a != sign b) (units (mag a) * unitsPerOne) := by
    rw [← signed_mul_natCast, value_eq_signed]
    cases sign b
    · rw [Bool.bne_false]; rfl
    · rw [Bool.bne_true, ← neg_signed]; rfl
  rw [hnum, div_of_isFinite ha hb hzero]
  exact roundsTo_round64 _ _ (units_strictMono (Nat.pos_of_ne_zero hzero))

theorem div_by_zero (hzero : mag b = 0) :
    if mag a = 0 then isNaN (div a b) = true
    else isInf (div a b) = true ∧ sign (div a b) = (sign a != sign b) := by
  split
  · next hnum => rw [div, if_pos (by simp [hnum, hzero])]; exact isNaN_nanResult _ _ _
  · next hnum =>
    have hdiv : div a b = pack (sign a != sign b) infMag := by
      simp [div, isNaN_of_isFinite ha, isNaN_of_isFinite hb, isInf_of_isFinite ha, hzero, hnum]
    rw [hdiv]
    exact ⟨isInf_pack_infMag _, sign_pack_infMag _⟩

end Operands

/-! ### NaN and infinite operands -/

section Special

variable {a b : F64}

theorem isNaN_sub_right (a : F64) (h : isNaN b = true) : isNaN (sub a b) = true := by
  rw [sub, if_pos (by simp [h])]; exact isNaN_nanResult _ _ _

theorem isNaN_div_right (a : F64) (h : isNaN b = true) : isNaN (div a b) = true := by
  rw [div, if_pos (by simp [h])]; exact isNaN_nanResult _ _ _

theorem add_inf_left (ha : isInf a = true) (hb : isNaN b = false) :
    if isInf b = true ∧ sign a ≠ sign b then isNaN (add a b) = true else add a b = a := by
  split
  · next hinvalid => rw [add, if_pos (by simp [ha, hinvalid])]; exact isNaN_nanResult _ _ _
  · next hvalid => rw [add, if_neg (by simpa [isNaN_of_isInf ha, hb, ha] using hvalid), if_pos ha]

theorem sub_inf_left (ha : isInf a = true) (hb : isNaN b = false) :
    if isInf b = true ∧ sign a = sign b then isNaN (sub a b) = true else sub a b = a := by
  split
  · next hinvalid => rw [sub, if_pos (by simp [ha, hinvalid])]; exact isNaN_nanResult _ _ _
  · next hvalid => rw [sub, if_neg (by simpa [isNaN_of_isInf ha, hb, ha] using hvalid), if_pos ha]

/-- A product with an infinity, on either side, is invalid exactly where the other factor is a zero. -/
theorem mul_inf (hinf : isInf a = true ∨ isInf b = true) (ha : isNaN a = false) (hb : isNaN b = false) :
    if mag a = 0 ∨ mag b = 0 then isNaN (mul a b) = true
    else isInf (mul a b) = true ∧ sign (mul a b) = (sign a != sign b) := by
  split
  · next hzero =>
    have hinvalid : (isInf a && mag b == 0 || mag a == 0 && isInf b) = true := by
      rcases hinf with h | h
      · simp [h, hzero.resolve_left (mag_ne_zero_of_isInf h)]
      · simp [h, hzero.resolve_right (mag_ne_zero_of_isInf h)]
    rw [mul, if_pos (by rw [Bool.or_assoc, hinvalid, Bool.or_true])]
    exact isNaN_nanResult _ _ _
  · next hnonzero =>
    obtain ⟨hmaga, hmagb⟩ := not_or.1 hnonzero
    rw [mul, if_neg (by simp [ha, hb, hmaga, hmagb]), if_pos (by simpa using hinf)]
    exact ⟨isInf_pack_infMag _, sign_pack_infMag _⟩

theorem div_inf_left (ha : isInf a = true) (hb : isNaN b = false) :
    if isInf b = true then isNaN (div a b) = true
    else isInf (div a b) = true ∧ sign (div a b) = (sign a != sign b) := by
  split
  · next hinvalid => rw [div, if_pos (by simp [ha, hinvalid])]; exact isNaN_nanResult _ _ _
  · next hvalid =>
    rw [div, if_neg (by simp [isNaN_of_isInf ha, hb, hvalid, mag_ne_zero_of_isInf ha]), if_pos (by simp [ha])]
    exact ⟨isInf_pack_infMag _, sign_pack_infMag _⟩

section InfiniteRight

variable (ha : isFinite a = true) (hb : isInf b = true)
include ha hb

theorem add_inf_right : add a b = b := by
  simp [add, isNaN_of_isFinite ha, isNaN_of_isInf hb, isInf_of_isFinite ha, hb]

theorem sub_inf_right : sub a b = neg b := by
  simp [sub, isNaN_of_isFinite ha, isNaN_of_isInf hb, isInf_of_isFinite ha, hb]

theorem div_inf_right : div a b = pack (sign a != sign b) 0 := by
  simp [div, isNaN_of_isFinite ha, isNaN_of_isInf hb, isInf_of_isFinite ha, hb, mag_ne_zero_of_isInf hb]

end InfiniteRight

end Special

/-! ### Integer operands -/

/-- A number of at most `p + 1` bits times `2 ^ e` is a magnitude, if normalising it leaves a natural exponent. -/
theorem exists_magUnits_eq {p e n : Nat} (hpe : p ≤ e) (hn : n < 2 ^ (p + 1)) :
    ∃ m, m ≤ e * 2 ^ p + 2 ^ (p + 1) ∧ magUnits p m = n * 2 ^ e := by
  rcases Nat.eq_zero_or_pos n with rfl | hpos
  · exact ⟨0, Nat.zero_le _, by rw [magUnits_zero, Nat.zero_mul]⟩
  have hlog : n.log2 ≤ p := Nat.lt_succ_iff.1 ((Nat.log2_lt hpos.ne').2 hn)
  have hlower : 2 ^ p ≤ n * 2 ^ (p - n.log2) := by
    calc 2 ^ p = 2 ^ n.log2 * 2 ^ (p - n.log2) := by rw [← pow_add, Nat.add_sub_cancel' hlog]
      _ ≤ n * 2 ^ (p - n.log2) := Nat.mul_le_mul_right _ (Nat.log2_self_le hpos.ne')
  have hupper : n * 2 ^ (p - n.log2) ≤ 2 ^ (p + 1) := by
    calc n * 2 ^ (p - n.log2) ≤ 2 ^ (n.log2 + 1) * 2 ^ (p - n.log2) := Nat.mul_le_mul_right _ Nat.lt_log2_self.le
      _ = 2 ^ (p + 1) := by rw [← pow_add]; congr 1; omega
  refine ⟨(e - (p - n.log2)) * 2 ^ p + n * 2 ^ (p - n.log2),
    Nat.add_le_add (Nat.mul_le_mul_right _ (Nat.sub_le _ _)) hupper, ?_⟩
  rw [magUnits_mul_add hupper (.inr hlower), Nat.mul_assoc, ← pow_add]
  congr 2
  omega

/-- A magnitude is its own rounding. -/
theorem roundMag_magUnits {p inf m : Nat} (hp : 0 < p) (hm : m ≤ inf) : roundMag p inf (magUnits p m) 1 = m := by
  obtain ⟨n, hlower, hupper, hchoice⟩ := roundsBetween_roundUnbounded hp one_pos (magUnits p m)
  rw [Nat.mul_one] at hlower hupper hchoice
  have hnm : n = m := le_antisymm ((magUnits_strictMono p).le_iff_le.1 hlower)
    (Nat.lt_succ_iff.1 ((magUnits_strictMono p).lt_iff_lt.1 hupper))
  subst hnm
  rw [roundMag_eq_min, show roundUnbounded p (magUnits p n) 1 = n by omega]
  exact min_eq_right hm

/-- An integer below 2^53 is the value of a finite pattern, so rounding leaves it. -/
theorem ofNat_eq_pack {n : Nat} (hn : n < 2 ^ 53) :
    ∃ m, m < infMag ∧ units m = n * unitsPerOne ∧ ofNat n = pack false m := by
  obtain ⟨m, hm, hunits⟩ := exists_magUnits_eq (p := 52) (e := 1074) (by decide) hn
  have hlt : m < infMag := lt_of_le_of_lt hm (by decide)
  rw [← pow2_eq 1074] at hunits
  refine ⟨m, hlt, (units_eq_magUnits m).trans hunits, ?_⟩
  rw [ofNat, round64, show n * unitsPerOne = magUnits 52 m from hunits.symm, roundMag_magUnits (by decide) hlt.le]

theorem ofNat_exact {n : Nat} (hn : n < 2 ^ 53) :
    isFinite (ofNat n) = true ∧ value (ofNat n) = (n * unitsPerOne : Nat) ∧ sign (ofNat n) = false := by
  obtain ⟨m, hlt, hunits, hpack⟩ := ofNat_eq_pack hn
  have hbits := lt_signBit_of_le_infMag hlt.le
  rw [hpack, isFinite, mag_pack _ hbits, value_pack _ hlt.le, hunits]
  exact ⟨decide_eq_true hlt, rfl, sign_pack _ hbits⟩

/-- Settles O49: each operator is one rounding of its signed exact result, and its special cases are its first branches. -/
theorem arithmeticRoundsTheExactResult : Obligations.ArithmeticRoundsTheExactResult := by
  unfold Obligations.ArithmeticRoundsTheExactResult
  intro a b
  refine ⟨?nan, ?finite, ?infLeft, ?infRight, fun n => ofNat_exact⟩
  case nan =>
    rintro (ha | hb)
    · exact ⟨isNaN_add_left b ha, isNaN_sub_left b ha, isNaN_mul_left b ha, isNaN_div_left b ha⟩
    · exact ⟨isNaN_add_right a hb, isNaN_sub_right a hb, isNaN_mul_right a hb, isNaN_div_right a hb⟩
  case finite =>
    intro ha hb
    have hdiff : value a - value b = value a + value (neg b) := by rw [value_neg, sub_eq_add_neg]
    rw [add_of_isFinite ha hb, sub_of_isFinite ha hb, hdiff, ← sign_neg b]
    refine ⟨roundsTo_addFinite a b, sign_addFinite_of_zero, roundsTo_addFinite a (neg b), sign_addFinite_of_zero,
      roundsTo_mul ha hb, ?_, fun hzero => ⟨roundsTo_div ha hb hzero, ?_⟩, div_by_zero ha hb⟩
    · rw [mul_of_isFinite ha hb, sign_round64]
    · rw [div_of_isFinite ha hb hzero, sign_round64]
  case infLeft =>
    intro ha hb
    have hmul := mul_inf (.inl ha) (isNaN_of_isInf ha) hb
    simp only [mag_ne_zero_of_isInf ha, false_or] at hmul
    exact ⟨add_inf_left ha hb, sub_inf_left ha hb, hmul, div_inf_left ha hb⟩
  case infRight =>
    intro ha hb
    have hmul := mul_inf (.inr hb) (isNaN_of_isFinite ha) (isNaN_of_isInf hb)
    simp only [mag_ne_zero_of_isInf hb, or_false] at hmul
    rw [add_inf_right ha hb, sub_inf_right ha hb, div_inf_right ha hb]
    exact ⟨rfl, ⟨by rw [isInf, mag_neg]; exact hb, sign_neg b⟩, hmul, mag_pack _ (by decide), sign_pack _ (by decide)⟩

end Sys2Proof.Fp

namespace Sys2Proof

/-! ## The parameters (00_scope R9) -/

theorem Config.maxTicks_bounds : 1 ≤ Config.maxTicks ∧ Config.maxTicks ≤ 2 ^ 23 := by
  unfold Config.maxTicks
  omega

theorem Config.outDepth_bounds : Config.maxTicks ≤ Config.outDepth ∧ Config.outDepth ≤ 2 ^ 23 := by
  have := Config.maxTicks_bounds
  have := Nat.mod_lt Config.outDepthChoice (show 0 < 2 ^ 23 + 1 - Config.maxTicks by omega)
  unfold Config.outDepth
  omega

end Sys2Proof

namespace Sys2Proof.Machine

/-! ## The fields of STATUS (10_state R23)

The fields lie side by side, so a field is reached by dropping the ones below it. -/

theorem toBits_state (v : Status) : v.toBits.extractLsb' 0 2 = v.state.code :=
  BitVec.extractLsb'_append_eq_right

theorem toBits_endReason (v : Status) : v.toBits.extractLsb' 4 4 = v.endReason.code := by
  unfold Status.toBits
  iterate 3 rw [BitVec.extractLsb'_append_eq_of_le (by decide)]
  exact BitVec.extractLsb'_append_eq_right

theorem toBits_faultCode (v : Status) : v.toBits.extractLsb' 8 8 = v.faultCode.code := by
  unfold Status.toBits
  iterate 4 rw [BitVec.extractLsb'_append_eq_of_le (by decide)]
  exact BitVec.extractLsb'_append_eq_right

theorem toBits_reserved (v : Status) : v.toBits.extractLsb' 21 43 = 0#43 := by
  unfold Status.toBits
  iterate 9 rw [BitVec.extractLsb'_append_eq_of_le (by decide)]
  exact BitVec.extractLsb'_append_eq_left

/-- The bits of STATUS that are a field each, and the reserved bit 3. -/
theorem toBits_flags (v : Status) :
    v.toBits.getLsbD 2 = v.evt ∧ v.toBits.getLsbD 3 = false ∧ v.toBits.getLsbD 16 = v.errBusy ∧
      v.toBits.getLsbD 17 = v.errCmd ∧ v.toBits.getLsbD 18 = v.errCfg ∧ v.toBits.getLsbD 19 = v.errAddr ∧
      v.toBits.getLsbD 20 = v.nanSeen := by
  simp only [Status.toBits, BitVec.getLsbD_append]
  simp

/-- Settles O7, field by field: the codes of the three enumerations are those of R23. -/
theorem statusBitsStandWhereStated : Obligations.StatusBitsStandWhereStated := by
  unfold Obligations.StatusBitsStandWhereStated
  intro v
  obtain ⟨hevt, hreserved, hbusy, hcmd, hcfg, haddr, hnan⟩ := toBits_flags v
  rw [toBits_state, toBits_endReason, toBits_faultCode]
  refine ⟨?_, hevt, hreserved, ?_, ?_, hbusy, hcmd, hcfg, haddr, hnan, toBits_reserved v⟩
  · cases v.state <;> rfl
  · cases v.endReason <;> rfl
  · cases v.faultCode <;> rfl

/-! ## The reset state (10_state R50) -/

/-- Settles O56: the reset values of R50 and the bounds of R9, with an NBUF of +0.0 (log 7) and a BPS of 1 (log 13). -/
theorem resetMeetsTheInvariant : Obligations.ResetMeetsTheInvariant where
  params := ⟨Config.maxTicks_bounds.1, Config.outDepth_bounds⟩
  memory := reset_memory_wf
  ticks := Nat.zero_le _
  outputs := le_rfl
  clips := le_rfl
  faultTick := rfl
  faultEmpty := nofun
  ended := by simp [State.reset, Status.zero]
  faulted := by simp [State.reset, Status.zero]
  event := nofun
  bpsLegal := .inl rfl
  pcmWritten := nofun
  normWritten := nofun
  noiseRange := fun i hi => by
    have hzero : State.reset.nbuf.getD i Fp.zero = Fp.zero := by simp [State.reset, Vector.getD, hi, Fp.zero]
    rw [hzero]
    exact inNoiseRange_zero
  stage := by decide
  phase := by decide
  ring := by decide
  repElapsed := by decide
  numSummed := by decide
  running := nofun

/-- The value a register reads as after power-on reset (10_state R22, R27, R29, R50). -/
def Reg.resetValue : Reg → Reg64
  | .ro .id => 0x5346585200000007#64
  | .ro .maxTicks => BitVec.ofNat 64 Config.maxTicks
  | .ro .outDepth => BitVec.ofNat 64 Config.outDepth
  | .cfg .masterVol => 0x3FF0000000000000#64
  | .cfg .sampleRate => 44100#64
  | .cfg .sampleSize => 8#64
  | _ => 0#64

/-- A number that fits 32 bits reads as itself. -/
theorem readCount32_of_lt {n : Nat} (h : n < 2 ^ 32) : readCount32 n = BitVec.ofNat 64 n := by
  apply BitVec.eq_of_toNat_eq
  simp only [readCount32, readU32, BitVec.toNat_setWidth, BitVec.toNat_ofNat]
  omega

theorem readReg_reset (r : Reg) : readReg State.reset r = r.resetValue := by
  cases r with
  | cmd => rfl
  | status => rfl
  | ctrl => rfl
  | ro r =>
    cases r with
    | maxTicks => exact readCount32_of_lt (Config.maxTicks_bounds.2.trans_lt (by decide))
    | outDepth => exact readCount32_of_lt (Config.outDepth_bounds.2.trans_lt (by decide))
    | _ => rfl
  | cfg r => cases r <;> rfl

/-- No register but these six is other than 0 at reset. -/
theorem resetValue_eq_zero {r : Reg}
    (h : r ∉ [.ro .id, .ro .maxTicks, .ro .outDepth, .cfg .masterVol, .cfg .sampleRate, .cfg .sampleSize]) :
    r.resetValue = 0#64 := by
  unfold Reg.resetValue
  split <;> simp_all

/-- A mapped index is that of a register (40_host_ops R100). -/
theorem exists_addrOfReg {a : Nat} (h : mappedIndex a = true) : ∃ r : Reg, a = (addrOfReg r).toNat := by
  have hlt : a < 256 := by
    simp only [mappedIndex, Bool.or_eq_true, Bool.and_eq_true, decide_eq_true_eq] at h
    omega
  cases hr : regOfIndex (BitVec.ofNat 8 a) with
  | none => exact absurd (regOfIndex_none hlt hr) (by simp [h])
  | some r =>
    refine ⟨r, ?_⟩
    rw [(regOfIndex_some hlt hr).2, BitVec.toNat_ofNat, Nat.mod_eq_of_lt (by omega)]

/-- Settles O6: the index is that of a register, and each register reads as its reset value. -/
theorem resetRegistersReadTheirValues : Obligations.ResetRegistersReadTheirValues := by
  unfold Obligations.ResetRegistersReadTheirValues
  intro a ha
  obtain ⟨r, rfl⟩ := exists_addrOfReg ha
  have hread : exec (.regRd (BitVec.ofNat 24 (addrOfReg r).toNat)) State.reset =
      .next (State.reset.setResponse r.resetValue) := by
    rw [BitVec.ofNat_toNat, BitVec.setWidth_eq, ← readReg_reset]
    simp only [exec, execRegRd, regOfAddr_addrOfReg]
  have hnamed (q : Reg) (hq : (addrOfReg r).toNat = (addrOfReg q).toNat) : r.resetValue = q.resetValue := by
    rw [addrOfReg_injective (BitVec.eq_of_toNat_eq hq)]
  exact ⟨r.resetValue, hread, hnamed (.ro .id), hnamed (.ro .maxTicks), hnamed (.ro .outDepth),
    hnamed (.cfg .masterVol), hnamed (.cfg .sampleRate), hnamed (.cfg .sampleSize), fun hother =>
    resetValue_eq_zero fun hmem => hother (List.mem_map_of_mem (f := fun q => (addrOfReg q).toNat) hmem)⟩

/-! ## The bounds of the run-state registers (10_state R40) -/

/-- The run-state registers lie within their fields. -/
structure RunRegs.InRange (r : RunRegs) : Prop where
  stage : r.envStage ≤ 3
  phase : r.phase < 2 ^ 32
  ring : r.ipp < 1024
  repElapsed : r.repElapsed < 2 ^ 32
  numSummed : r.numSummed < 44100

theorem RunRegs.InRange.zero : RunRegs.zero.InRange := by constructor <;> decide

theorem StateInv.runInRange {s : State} (h : StateInv s) : s.run.InRange :=
  ⟨h.stage, h.phase, h.ring, h.repElapsed, h.numSummed⟩

/-! ## The host's steps keep the invariant -/

/-- Taking words from the bus and a turn from the environment's list keeps the invariant. -/
theorem StateInv.advanced {s : State} (h : StateInv s) (rest : List Word) : StateInv (advanced s rest) :=
  { h with running := fun hb => { h.running hb with } }

/-- An answer to the host keeps the invariant. -/
theorem StateInv.answered {s : State} (h : StateInv s) {v : Status} (hv : SoftStatus s.status v) (r : Reg64) :
    StateInv ((s.setStatus v).setResponse r) := by
  obtain ⟨hstate, hend, hfault, -, hevt⟩ := hv
  refine { h with
    faultTick := ?faultTick, faultEmpty := ?faultEmpty, ended := ?ended, faulted := ?faulted, event := ?event
    running := ?running }
  all_goals simp only [setResponse_status, setStatus_status, hstate, hend, hfault]
  case faultTick => exact h.faultTick
  case faultEmpty => exact h.faultEmpty
  case ended => exact h.ended
  case faulted => exact h.faulted
  case event => exact fun he => h.event (hevt he)
  case running =>
    intro hb
    have hr := h.running hb
    have hquiet : v.evt = false := by
      by_contra he
      exact absurd (hevt (by simpa using he)) (by simp [hr.noEvent])
    exact { hr with noEvent := hquiet }

/-- Outside BUSY the CTRL register is under no condition of the invariant. -/
theorem StateInv.setCtrl {s : State} (h : StateInv s) (hb : s.status.state ≠ .busy) (c : Ctrl) :
    StateInv (s.setCtrl c) :=
  { h with running := fun hb' => absurd hb' hb }

/-- Outside BUSY no CFG register is under a condition of the invariant. -/
theorem StateInv.setCfg {s : State} (h : StateInv s) (hb : s.status.state ≠ .busy) (c : Cfg) :
    StateInv (s.setCfg c) :=
  { h with running := fun hb' => absurd hb' hb }

/-- InitRun of a legal configuration begins a run at place 0 of the envelope and of the decimator (10_state R45). -/
theorem initRun_runInv {s : State} (hl : s.cfg.legal = true) : RunInv (initRun s) := by
  rw [initRun_eq]
  exact
    { legal := hl
      bps := rfl
      stage := Nat.zero_le _
      elapsed := Nat.zero_le _
      position := rfl
      summed := (Nat.zero_mul _).symm
      summedBelow := Cfg.summands_pos hl
      repeating := Nat.zero_le _
      noEvent := rfl }

/-- Outside DONE and FAULT, with no record in STATUS, all counters and run-state registers may go back to 0: what START
and RESET have in common. -/
theorem StateInv.cleared {s : State} (h : StateInv s) {v : Status} {bps : Nat} {nbuf : Vector F64 32} (w : Work)
    (fbuf : Vector F64 1024) (draws : Nat) (hstate : v.state ≠ .done ∧ v.state ≠ .fault)
    (hend : v.endReason = .none) (hfault : v.faultCode = .none) (hevt : v.evt = false) (hbps : bps = 1 ∨ bps = 2)
    (hnbuf : ∀ i, i < 32 → inNoiseRange (nbuf.getD i Fp.zero) = true) {t : State}
    (ht : t =
      { s with
        nbuf := nbuf
        drawCount := draws
        work := w
        run := RunRegs.zero
        fbuf := fbuf
        count := Counters.zero
        bps := bps
        status := v })
    (hrun : t.status.state = .busy → RunInv t) : StateInv t := by
  subst ht
  exact { h with
    ticks := Nat.zero_le _
    outputs := le_rfl
    clips := le_rfl
    faultTick := (ite_self 0).symm
    faultEmpty := fun _ => rfl
    ended := iff_of_false (not_not_intro hend) hstate.1
    faulted := iff_of_false (not_not_intro hfault) hstate.2
    event := fun he => absurd he (by simp [hevt])
    bpsLegal := hbps
    pcmWritten := fun a ha => absurd ha (by simp [Counters.zero])
    normWritten := fun i hi => absurd hi (Nat.not_lt_zero i)
    noiseRange := hnbuf
    stage := RunRegs.InRange.zero.stage
    phase := RunRegs.InRange.zero.phase
    ring := RunRegs.InRange.zero.ring
    repElapsed := RunRegs.InRange.zero.repElapsed
    numSummed := RunRegs.InRange.zero.numSummed
    running := hrun }

theorem inNoiseRange_drawTable (n : Nat) : ∀ i, i < 32 → inNoiseRange ((drawTable n).getD i Fp.zero) = true := by
  intro i hi
  rw [drawTable_getD hi]
  exact inNoiseRange_draw _

/-- An accepted START keeps the invariant. -/
theorem StateInv.initRun {s : State} (h : StateInv s) (hl : s.cfg.legal = true) : StateInv (initRun s) :=
  h.cleared (Work.load s.cfg) clearedFbuf (s.drawCount + 32) ⟨by simp, by simp⟩ rfl rfl rfl (Cfg.bps_legal hl)
    (inNoiseRange_drawTable s.drawCount) (initRun_eq s) fun _ => initRun_runInv hl

/-- An accepted RESET keeps the invariant. -/
theorem StateInv.softReset {s : State} (h : StateInv s) : StateInv (softReset s) :=
  h.cleared Work.zero s.fbuf s.drawCount ⟨by decide, by decide⟩ rfl rfl rfl h.bpsLegal h.noiseRange (softReset_eq s)
    nofun

/-- Every host transaction keeps the invariant. -/
theorem HostCase.keeps_inv {s t : State} (hc : HostCase s t) (h : StateInv s) : StateInv t := by
  cases hc with
  | answered v r hv ht => exact ht ▸ h.answered hv r
  | ctrl c hb ht => exact ht ▸ h.setCtrl hb c
  | cfg c hb ht => exact ht ▸ h.setCfg hb c
  | started _ hl ht => exact ht ▸ h.initRun hl
  | reset _ ht => exact ht ▸ h.softReset

/-! ## The ends of a run keep the invariant -/

/-- While BUSY, STATUS holds no end reason, no fault code, and FAULT_TICK is 0. -/
theorem StateInv.no_record {s : State} (h : StateInv s) (hb : s.status.state = .busy) :
    s.status.endReason = .none ∧ s.status.faultCode = .none ∧ s.count.faultTick = 0 := by
  refine ⟨?_, ?_, ?_⟩
  · by_contra he
    exact absurd (h.ended.1 he) (by simp [hb])
  · by_contra hf
    exact absurd (h.faulted.1 hf) (by simp [hb])
  · rw [h.faultTick, hb, if_neg (by decide)]

/-- A normal end keeps the invariant, whatever the ending tick has written to the voice within the registers' bounds. -/
theorem StateInv.endRun {s u : State} {reason : EndReason} (h : StateInv s) (hb : s.status.state = .busy)
    (hreason : reason ≠ .none) (hv : VoiceOnly s u) (hu : u.run.InRange) : StateInv (endRun reason u) := by
  obtain ⟨w, r, rfl⟩ := hv
  obtain ⟨-, hfault, htick⟩ := h.no_record hb
  exact { h with
    faultTick := htick
    faultEmpty := nofun
    ended := iff_of_true hreason rfl
    faulted := iff_of_false (not_not_intro hfault) (by simp [Machine.endRun])
    event := fun _ => .inl rfl
    stage := hu.stage
    phase := hu.phase
    ring := hu.ring
    repElapsed := hu.repElapsed
    numSummed := hu.numSummed
    running := nofun }

/-- A fault keeps the invariant: its record is the tick it was raised in, and the output is empty (60_exceptions R251). -/
theorem StateInv.raiseFault {s : State} {code : FaultCode} (h : StateInv s) (hb : s.status.state = .busy)
    (hcode : code ≠ .none) : StateInv (raiseFault code s) := by
  obtain ⟨hend, -, -⟩ := h.no_record hb
  exact { h with
    outputs := Nat.zero_le _
    clips := le_rfl
    faultTick := rfl
    faultEmpty := fun _ => rfl
    ended := iff_of_false (not_not_intro hend) (by simp [Machine.raiseFault])
    faulted := iff_of_true hcode rfl
    event := fun _ => .inr rfl
    pcmWritten := fun a ha => absurd ha (by simp [Machine.raiseFault])
    normWritten := fun i hi => absurd hi (Nat.not_lt_zero i)
    running := nofun }

/-! ## The part of a tick before the decimation -/

/-- REP_ELAPSED stays within REPEAT_TIME (10_state R40). -/
theorem retrigger_repElapsed_le {s : State} (h : s.run.repElapsed ≤ s.cfg.repeatTime.toNat) :
    (retrigger s).run.repElapsed ≤ s.cfg.repeatTime.toNat := by
  rcases retrigger_repElapsed s with heq | hle
  · rw [heq]; exact h
  · exact hle

/-- The retrigger keeps the registers within their bounds. -/
theorem RunRegs.InRange.retrigger {s : State} (h : s.run.InRange) : (retrigger s).run.InRange := by
  have hrep : (Machine.retrigger s).run.repElapsed < 2 ^ 32 := by
    rcases retrigger_repElapsed s with heq | hle
    · rw [heq]; exact h.repElapsed
    · exact hle.trans_lt (BitVec.isLt _)
  rw [retrigger_run]
  exact { h with repElapsed := hrep }

/-- From a stage of a run in progress EnvAdvance comes to the DONE stage at most (43_envelope R170). -/
theorem enveloped_stage_le {s : State} (h : s.run.envStage ≤ 2) : (enveloped s).run.envStage ≤ 3 := by
  have hstage := enveloped_stage s
  split at hstage <;> omega

/-- Steps 2 to 9 keep the registers of a run in progress within their bounds. -/
theorem RunRegs.InRange.enveloped {s : State} (h : s.run.InRange) (hstage : s.run.envStage ≤ 2) :
    (enveloped s).run.InRange := by
  have hstage' := enveloped_stage_le hstage
  rw [enveloped_run]
  exact { h with stage := hstage', repElapsed := h.retrigger.repElapsed }

/-- A tick that does not end the run moves the envelope one place on (43_envelope R170, R172). -/
theorem enveloped_position {s : State} (hr : RunInv s) (he : envStop (dutySlide (modulated s)) = false) :
    (enveloped s).run.envStage ≤ 2 ∧
      (enveloped s).run.envElapsed ≤ s.cfg.stageLen (enveloped s).run.envStage ∧
      s.count.tickCount + 1 = envPosition s.cfg (enveloped s).run.envStage (enveloped s).run.envElapsed := by
  have hstop : ¬ (s.cfg.stageLen s.run.envStage < s.run.envElapsed + 1 ∧ 2 ≤ s.run.envStage) := by
    rw [← envStop_iff, he]; decide
  have hmoves := enveloped_stage s
  have hle := hr.stage
  have helapsed := hr.elapsed
  have hpos := hr.position
  split at hmoves
  case isTrue hover =>
    -- The stage is over with its elapsed count at its length; the next one begins.
    obtain ⟨hstage, hzero⟩ := hmoves
    rw [hstage, hzero]
    have hearly : s.run.envStage = 0 ∨ s.run.envStage = 1 := by omega
    rcases hearly with h0 | h0 <;> simp only [h0, Cfg.stageLen, envPosition] at * <;> omega
  case isFalse hgoes =>
    obtain ⟨hstage, helapsed'⟩ := hmoves
    rw [hstage, helapsed']
    refine ⟨hle, by omega, ?_⟩
    rw [hpos]
    unfold envPosition
    split <;> rfl

/-- What a tick that completes has done to the run in progress `s` when it comes to its decimation. -/
structure BeforeDecimate (s u : State) : Prop where
  sound : SoundOnly s u
  noiseRange : ∀ i, i < 32 → inNoiseRange (u.nbuf.getD i Fp.zero) = true
  stage : u.run.envStage ≤ 2
  elapsed : u.run.envElapsed ≤ s.cfg.stageLen u.run.envStage
  position : s.count.tickCount + 1 = envPosition s.cfg u.run.envStage u.run.envElapsed
  phase : u.run.phase < 2 ^ 32
  ring : u.run.ipp < 1024
  repeating : u.run.repElapsed ≤ s.cfg.repeatTime.toNat
  numSummed : u.run.numSummed = s.run.numSummed

theorem StateInv.beforeDecimate {sh : Shape} {s u : State} {iper ishift : Nat} {env acc : F64} (h : StateInv s)
    (hb : s.status.state = .busy) (hk : intPeriod (vibratoPeriod (modulated s)) = some iper)
    (he : envStop (dutySlide (modulated s)) = false)
    (hs : subSamples sh iper env ishift 8 (primed s, Fp.zero) = some (u, acc)) : BeforeDecimate s u := by
  have hr := h.running hb
  obtain ⟨hiper, hiper'⟩ := intPeriod_bounds hk
  obtain ⟨hstage, helapsed, hposition⟩ := enveloped_position hr he
  obtain ⟨hphase, hring⟩ := subSamples_phase hs
  have hrun := (subSamples_run hs).1
  rw [primed_run] at hrun
  have hstage_eq : u.run.envStage = (Machine.enveloped s).run.envStage := by rw [hrun]
  have helapsed_eq : u.run.envElapsed = (Machine.enveloped s).run.envElapsed := by rw [hrun]
  have hrep_eq : u.run.repElapsed = (retrigger s).run.repElapsed := by rw [hrun, enveloped_run]
  have hnbuf : (primed s).nbuf = s.nbuf := by
    obtain ⟨w, r, hp⟩ := primed_voice s
    rw [hp]; rfl
  exact
    { sound := (primed_voice s).sound.trans (subSamples_frame hs)
      noiseRange := subSamples_noiseRange hs (hnbuf ▸ h.noiseRange)
      stage := hstage_eq ▸ hstage
      elapsed := by rw [hstage_eq, helapsed_eq]; exact helapsed
      position := by rw [hstage_eq, helapsed_eq]; exact hposition
      phase := by
        have := Nat.mod_lt ((primed s).run.phase + (7 + 1)) (show 0 < iper by omega)
        omega
      ring := hring ▸ Nat.mod_lt _ (by decide)
      repeating := hrep_eq ▸ retrigger_repElapsed_le hr.repeating
      numSummed := by rw [hrun, enveloped_run] }

/-! ## Decimation and the tick count -/

/-- BPS is the number of bytes a sample takes (10_state R38). -/
theorem Cfg.bps_eq_sampleBytes {c : Cfg} (h : c.legal = true) : c.bps = sampleBytes c := by
  obtain ⟨-, -, h8 | h16⟩ := (Cfg.legal_iff c).1 h
  · simp [Cfg.bps, sampleBytes, h8]
  · simp [Cfg.bps, sampleBytes, h16]

/-- Sample `n` begins where the `n` samples before it end (20_memory R63). -/
theorem sampleAddr_eq (c : Cfg) (n : Nat) : sampleAddr c n = n * sampleBytes c := by
  unfold sampleAddr sampleBytes
  split <;> omega

/-- With `n` whole samples in PCM, storing sample `n` makes it `n + 1`. -/
theorem storedSample_written {c : Cfg} {n : Nat} (q : Int) {m : List Host.Cell}
    (h : ∀ a, a < n * sampleBytes c → (cellRead m a).isSome) :
    ∀ a, a < (n + 1) * sampleBytes c → (cellRead (storedSample c n q m) a).isSome := by
  intro a ha
  rw [Nat.succ_mul] at ha
  apply storedSample_isSome
  rw [sampleAddr_eq]
  by_cases hold : a < n * sampleBytes c
  · exact .inr (h a hold)
  · exact .inl ⟨Nat.not_lt.1 hold, ha⟩

/-- With `n` entries in NORM, storing entry `n` makes them `n + 1`. -/
theorem cellWrite_written {α : Type} {n : Nat} (w : α) {m : List (Nat × α)}
    (h : ∀ i, i < n → (cellRead m i).isSome) : ∀ i, i < n + 1 → (cellRead (cellWrite n w m) i).isSome :=
  fun i hi => cellWrite_isSome w ((Nat.lt_succ_iff_lt_or_eq.1 hi).symm.imp_right (h i))

/-- `v` is `u` but for the output: NAN_SEEN, OUT_COUNT, CLIP_COUNT, both memories and the decimator's registers. -/
def OutputOnly (u v : State) : Prop :=
  ∃ nan out clip num sum pcm norm,
    v = { u with
      status := { u.status with nanSeen := nan }
      count := { u.count with outCount := out, clipCount := clip }
      run := { u.run with numSummed := num, sampleSum := sum }
      pcm := pcm
      norm := norm }

theorem decimate_outputOnly {acc : F64} {u v : State} (h : decimate acc u = some v) : OutputOnly u v := by
  rcases decimate_cases h with ⟨-, rfl⟩ | ⟨-, -, rfl⟩
  · exact ⟨u.status.nanSeen, u.count.outCount, u.count.clipCount, _, _, u.pcm, u.norm, rfl⟩
  · exact ⟨_, _, _, _, _, _, _, emitStores_eq _ _⟩

/-- What the invariant says of the output, apart from the run. -/
structure OutputInv (s : State) : Prop where
  memory : Memory.wf s = true
  clips : s.count.clipCount ≤ s.count.outCount
  pcmWritten : ∀ a, a < s.count.outCount * s.bps → (cellRead s.pcm a).isSome
  normWritten : ∀ i, i < s.count.outCount → (cellRead s.norm i).isSome

theorem StateInv.output {s : State} (h : StateInv s) : OutputInv s :=
  ⟨h.memory, h.clips, h.pcmWritten, h.normWritten⟩

theorem OutputInv.ofSound {s u : State} (h : OutputInv s) (hu : SoundOnly s u) : OutputInv u := by
  obtain ⟨w, r, f, n, d, rfl⟩ := hu
  exact { h with }

/-- Emit keeps both memories canonical and lists every entry below the new OUT_COUNT (46_output R206). -/
theorem OutputInv.emitStores {u : State} (h : OutputInv u) (hbps : u.bps = sampleBytes u.cfg)
    (hroom : u.count.outCount < u.outDepth) (x : F64) : OutputInv (emitStores x u) := by
  have hpcm := h.pcmWritten
  rw [hbps] at hpcm
  have hclips := h.clips
  rw [emitStores_eq]
  refine ⟨stores_wf hroom _ _ h.memory, ?_, ?_, cellWrite_written _ h.normWritten⟩
  · dsimp only
    split <;> omega
  · dsimp only
    rw [hbps]
    exact storedSample_written _ hpcm

/-- Decimate keeps the output sound, whether it sums or emits (46_output R201). -/
theorem OutputInv.decimate {acc : F64} {u v : State} (h : OutputInv u) (hbps : u.bps = sampleBytes u.cfg)
    (hv : decimate acc u = some v) : OutputInv v := by
  rcases decimate_cases hv with ⟨-, rfl⟩ | ⟨-, hroom, rfl⟩
  · exact { h with }
  · have hcleared := h.ofSound (VoiceOnly.ofRun u { u.run with numSummed := 0, sampleSum := Fp.zero }).sound
    exact hcleared.emitStores hbps hroom _

/-- Decimate moves the decimator one tick on: it counts the tick as summed, or as the last of a sample (46_output R203). -/
theorem decimate_summed {acc : F64} {u v : State} (hbelow : u.run.numSummed < u.cfg.summands)
    (hv : decimate acc u = some v) :
    v.count.outCount * u.cfg.summands + v.run.numSummed =
        u.count.outCount * u.cfg.summands + u.run.numSummed + 1 ∧
      v.run.numSummed < u.cfg.summands ∧ v.count.outCount ≤ u.count.outCount + 1 := by
  rcases decimate_cases hv with ⟨hless, rfl⟩ | ⟨hfull, -, rfl⟩
  · exact ⟨rfl, hless, Nat.le_succ _⟩
  · rw [emitStores_eq]
    refine ⟨?_, Nat.zero_lt_of_lt hbelow, le_rfl⟩
    dsimp only
    rw [Nat.succ_mul]
    omega

/-- The decimation of a tick and the tick count keep the invariant. -/
theorem StateInv.decimated {s u v : State} {acc : F64} (h : StateInv s) (hb : s.status.state = .busy)
    (hc : s.count.tickCount < s.maxTicks) (hu : BeforeDecimate s u) (hv : decimate acc u = some v) :
    StateInv (countTick v) := by
  have hr := h.running hb
  have hout := h.output.ofSound hu.sound
  obtain ⟨⟨w, r, f, n, d, rfl⟩, hnoise, hstage, helapsed, hposition, hphase, hring, hrepeating, hnum⟩ := hu
  have hbelow : r.numSummed < s.cfg.summands := hnum ▸ hr.summedBelow
  obtain ⟨hsummed, hbelow', hstep⟩ := decimate_summed hbelow hv
  have hout' := hout.decimate (hr.bps.trans (Cfg.bps_eq_sampleBytes hr.legal)) hv
  obtain ⟨nan, out, clip, num, sum, pcm, norm, rfl⟩ := decimate_outputOnly hv
  exact { h with
    memory := hout'.memory
    ticks := hc
    outputs := hstep.trans (Nat.succ_le_succ h.outputs)
    clips := hout'.clips
    faultTick := by simp [countTick, hb, (h.no_record hb).2.2]
    faultEmpty := fun hf => absurd (hb.symm.trans hf) nofun
    pcmWritten := hout'.pcmWritten
    normWritten := hout'.normWritten
    noiseRange := hnoise
    stage := hstage.trans (by decide)
    phase := hphase
    ring := hring
    repElapsed := hrepeating.trans_lt (BitVec.isLt _)
    numSummed := hbelow'.trans_le (Cfg.summands_le _)
    running := fun _ =>
      { hr with
        stage := hstage
        elapsed := helapsed
        position := hposition
        summed := by
          have hdone : s.count.tickCount = s.count.outCount * s.cfg.summands + r.numSummed := hnum ▸ hr.summed
          exact (congrArg (· + 1) hdone).trans hsummed.symm
        summedBelow := hbelow'
        repeating := hrepeating } }

/-! ## Every step keeps the invariant -/

/-- Every tick keeps the invariant (41_sequencer R120). -/
theorem TickCase.keeps_inv {sh : Shape} {s t : State} (hc : TickCase sh s t) (h : StateInv s) : StateInv t := by
  cases hc with
  | idle _ ht => exact ht ▸ h
  | cap hb _ ht => exact ht ▸ h.endRun hb nofun (.refl s) h.runInRange
  | cutoff hb _ _ ht =>
    have hrange : (periodClamp (pitched s)).run.InRange := by
      rw [periodClamp_run, pitched_run]
      exact h.runInRange.retrigger
    exact ht ▸ h.endRun hb nofun ((pitched_voice s).trans (periodClamp_voice _)) hrange
  | envEnd hb _ _ _ ht =>
    exact ht ▸ h.endRun hb nofun (enveloped_voice s) (h.runInRange.enveloped (h.running hb).stage)
  | raised code hb _ hcode ht => exact ht ▸ h.raiseFault hb hcode
  | completed iper ishift u v acc hb hlt _ hk he _ hs hv ht =>
    exact ht ▸ h.decimated hb hlt (h.beforeDecimate hb hk he hs) hv

theorem port_decodeRegWr (addr : BitVec 24) (d : Reg64) : (decodeRegWr addr d).port = .bus := by
  unfold decodeRegWr
  split
  · unfold decodeCommand
    split <;> rfl
  · rfl

/-- What is read from the bus is an instruction of the host (30_encoding R81). -/
theorem port_of_decodeBus {ws rest : List Word} {i : Instr} (h : decodeBus ws = .instr i rest) : i.port = .bus := by
  revert h
  fun_cases decodeBus ws with
  | case1 => exact nofun
  | case3 w hrsv hop lo hi rest' => exact fun h => (Decoded.instr.inj h).1 ▸ port_decodeRegWr _ _
  | case4 => exact nofun
  | _ => exact fun h => (Decoded.instr.inj h).1 ▸ rfl

/-- Settles O57: a step is a tick, a host transaction or a turn given up, and each keeps the invariant. -/
theorem stepKeepsTheInvariant : Obligations.StepKeepsTheInvariant := by
  unfold Obligations.StepKeepsTheInvariant
  intro s t h hstep
  rcases step_eq s with ⟨-, htick⟩ | ⟨i, rest, -, hdecode, hexec⟩ | ⟨-, hidle⟩
  · rw [htick] at hstep
    exact (tick_cases hstep).keeps_inv (h.advanced s.bus)
  · obtain ⟨u, hu, hcase⟩ := exec_bus_cases i (port_of_decodeBus hdecode) (advanced s rest)
    rw [hexec, hu] at hstep
    exact Host.Outcome.next.inj hstep ▸ hcase.keeps_inv (h.advanced rest)
  · rw [hidle] at hstep
    exact Host.Outcome.next.inj hstep ▸ h.advanced s.bus

end Sys2Proof.Machine

namespace Sys2Proof.Machine

/-! ## Fetch and step (20_memory R70, 41_sequencer R120) -/

/-- What the host fetches is what decodes from the bus (40_host_ops R109). -/
theorem fetch_host_eq_some_iff {s : State} {i : Instr} {rest : List Word} :
    fetch .host s = some (i, rest) ↔ decode .bus s.bus = .instr i rest := by
  cases hd : decode .bus s.bus <;> simp [fetch, hd]

theorem fetch_host_eq_none {s : State} (h : ∀ i rest, decode .bus s.bus ≠ .instr i rest) : fetch .host s = none :=
  Option.eq_none_iff_forall_ne_some.2 fun p hp => h p.1 p.2 (fetch_host_eq_some_iff.1 hp)

theorem step_of_fetch_some {s : State} {i : Instr} {rest : List Word} (h : fetch (nextAgent s) s = some (i, rest)) :
    step s = exec i (advanced s rest) := by
  rw [step, h]

theorem step_of_fetch_none {s : State} (h : fetch (nextAgent s) s = none) : step s = .next (advanced s s.bus) := by
  rw [step, h]

theorem nextAgent_of_turns {s : State} {a : Agent} {as : List Agent} (h : s.turns = a :: as) : nextAgent s = a := by
  rw [nextAgent, h]

/-- Past the environment's choices the block moves while BUSY (log 3). -/
theorem nextAgent_eq_block_iff {s : State} (h : s.turns = []) : nextAgent s = .block ↔ s.status.state = .busy := by
  rw [nextAgent, h]
  split <;> simp_all

/-- Settles O5: a step follows what `fetch` answers for the agent whose turn it is. -/
theorem stepRunsTheDecodedInstruction : Obligations.StepRunsTheDecodedInstruction := by
  unfold Obligations.StepRunsTheDecodedInstruction
  intro s
  refine ⟨fun i rest hhost hdecode => ?_, fun hhost hnothing => ?_, fun hblock => ?_,
    fun _ _ => nextAgent_of_turns, nextAgent_eq_block_iff⟩
  · exact step_of_fetch_some (hhost ▸ fetch_host_eq_some_iff.2 hdecode)
  · exact step_of_fetch_none (hhost ▸ fetch_host_eq_none hnothing)
  · exact step_of_fetch_some (rest := s.bus) (by rw [hblock, fetch])

/-! ## Refused register writes and reserved headers (20_memory R64 (b), (e)) -/

theorem exec_regWr_unmapped {a : BitVec 24} (h : regOfAddr a = none) (d : Reg64) (s : State) :
    exec (.regWr a d) s = .next (stickyAddr s) := by
  rw [exec, execRegWr, h]

theorem exec_regWr_addrOfReg (r : Reg) (d : Reg64) (s : State) :
    exec (.regWr (addrOfReg r) d) s = .next (writeReg r d s) := by
  rw [exec, execRegWr, regOfAddr_addrOfReg]

/-- The registers that take a write are CMD, STATUS, CTRL and the CFG registers (10_state R20). -/
theorem writable_index {r : Reg} (h : ∀ q, r ≠ .ro q) :
    (1 ≤ (addrOfReg r).toNat ∧ (addrOfReg r).toNat ≤ 3) ∨ cfgIndex (addrOfReg r).toNat = true := by
  cases r with
  | cmd => decide
  | status => decide
  | ctrl => decide
  | ro q => exact absurd rfl (h q)
  | cfg q => exact .inr (cfgIndex_addrOfReg q)

/-- Settles O12: the index names no register, or a read-only one, since the writable ones lie outside the ranges. -/
theorem readOnlyWriteSetsErrAddr : Obligations.ReadOnlyWriteSetsErrAddr := by
  unfold Obligations.ReadOnlyWriteSetsErrAddr
  intro s a d ha
  rw [← stickyAddr_eq]
  cases hr : regOfAddr a with
  | none => exact exec_regWr_unmapped hr d s
  | some r =>
    obtain rfl := (regOfAddr_eq_some a r).1 hr
    have hro : ∃ q, r = .ro q := by
      by_contra hne
      have hwritable := writable_index (not_exists.1 hne)
      simp only [cfgIndex, Bool.and_eq_true, decide_eq_true_eq] at hwritable
      omega
    obtain ⟨q, rfl⟩ := hro
    exact exec_regWr_addrOfReg (.ro q) d s

/-- Settles O21: the meaning of a reserved header is one answer, in every state and for every header (log 19). -/
theorem reservedHeaderIsAnswered : Obligations.ReservedHeaderIsAnswered := by
  unfold Obligations.ReservedHeaderIsAnswered
  intro h s
  calc exec (.reservedOp h) s = .next ((stickyAddr s).setResponse 0#64) := rfl
    _ = _ := by rw [stickyAddr_eq, State.setResponse]

end Sys2Proof.Machine

namespace Sys2Proof

/-! ## Headers (30_encoding R80, R81, R86) -/

/-- A header whose RSV is 0 is its OP and its ADDR. -/
theorem header_of_fields {h : Word} {op : BitVec 4} (hop : opField h = op) (hrsv : rsvField h = 0#4) :
    header op (addrField h) = h := by
  have hfields := fields_of_word h
  rwa [hop, hrsv] at hfields

theorem reservedHeader_eq_false_iff (h : Word) :
    reservedHeader h = false ↔
      rsvField h = 0#4 ∧ (opField h = 1#4 ∨ opField h = 2#4 ∨ opField h = 3#4 ∨ opField h = 4#4) := by
  simp only [reservedHeader, rsvField, opField, Bool.or_eq_false_iff, bne_eq_false_iff_eq, Bool.not_eq_false',
    Bool.or_eq_true, beq_iff_eq, or_assoc]

/-- What a header can be: that of one of the four transactions, or reserved (30_encoding R81). -/
inductive HeaderCase : Word → Prop where
  | regRd (addr : BitVec 24) : HeaderCase (header 1#4 addr)
  | regWr (addr : BitVec 24) : HeaderCase (header 2#4 addr)
  | pcmRd (addr : BitVec 24) : HeaderCase (header 3#4 addr)
  | normRd (addr : BitVec 24) : HeaderCase (header 4#4 addr)
  | reserved (h : Word) (hreserved : reservedHeader h = true) : HeaderCase h

theorem headerCase (h : Word) : HeaderCase h := by
  cases hreserved : reservedHeader h with
  | true => exact .reserved h hreserved
  | false =>
    obtain ⟨hrsv, hop | hop | hop | hop⟩ := (reservedHeader_eq_false_iff h).1 hreserved
    · exact header_of_fields hop hrsv ▸ .regRd (addrField h)
    · exact header_of_fields hop hrsv ▸ .regWr (addrField h)
    · exact header_of_fields hop hrsv ▸ .pcmRd (addrField h)
    · exact header_of_fields hop hrsv ▸ .normRd (addrField h)

/-- H[31:24] is 0x20 exactly in the header of a REG_WR (30_encoding R86). -/
theorem lengthField_eq_iff (h : Word) : h.extractLsb' 24 8 = 0x20#8 ↔ ∃ addr, h = header 2#4 addr := by
  rw [length_field, length_field_eq]
  constructor
  · rintro ⟨hop, hrsv⟩
    exact ⟨addrField h, (header_of_fields hop hrsv).symm⟩
  · rintro ⟨addr, rfl⟩
    exact ⟨opField_header 2#4 addr, rsvField_header 2#4 addr⟩

/-! ## Commands and register writes (30_encoding R82, R84) -/

/-- The command of a code, one code after the other (30_encoding R84). -/
theorem decodeCommand_eq (d : Reg64) :
    decodeCommand d =
      if d.extractLsb' 0 8 = 0x00#8 then .cmdNop (d.extractLsb' 8 56)
      else if d.extractLsb' 0 8 = 0x01#8 then .cmdStart (d.extractLsb' 8 56)
      else if d.extractLsb' 0 8 = 0x02#8 then .cmdReset (d.extractLsb' 8 56)
      else .cmdReserved (d.extractLsb' 8 56) (d.extractLsb' 0 8) := by
  simp only [decodeCommand, ← BitVec.toNat_inj, BitVec.toNat_ofNat]
  split <;> simp_all

theorem decodeRegWr_cmd (d : Reg64) : decodeRegWr cmdAddr d = decodeCommand d := if_pos rfl

theorem decodeRegWr_of_ne {addr : BitVec 24} (haddr : addr ≠ cmdAddr) (d : Reg64) :
    decodeRegWr addr d = .regWr addr d := if_neg haddr

theorem decodeCommand_nop (hi : BitVec 56) : decodeCommand (hi ++ 0x00#8) = .cmdNop hi := by
  simp [decodeCommand]

theorem decodeCommand_start (hi : BitVec 56) : decodeCommand (hi ++ 0x01#8) = .cmdStart hi := by
  simp [decodeCommand]

theorem decodeCommand_reset (hi : BitVec 56) : decodeCommand (hi ++ 0x02#8) = .cmdReset hi := by
  simp [decodeCommand]

theorem decodeCommand_reserved (hi : BitVec 56) {code : BitVec 8} (hcode : 3 ≤ code.toNat) :
    decodeCommand (hi ++ code) = .cmdReserved hi code := by
  rw [decodeCommand, command_code, command_ignored]
  split
  case h_4 => rfl
  all_goals omega

/-- A command encodes to the register write that it is, with the bits D[63:8] that the block ignores. -/
theorem encode_decodeCommand (d : Reg64) : encode (decodeCommand d) = header 2#4 cmdAddr :: dataWords d := by
  have hwords : commandWords (d.extractLsb' 8 56) (d.extractLsb' 0 8) = header 2#4 cmdAddr :: dataWords d := by
    rw [commandWords, command_join]
  rw [← hwords, decodeCommand_eq]
  split_ifs with hnop hstart hreset
  · rw [hnop, encode]
  · rw [hstart, encode]
  · rw [hreset, encode]
  · rw [encode]

theorem encode_decodeRegWr (addr : BitVec 24) (d : Reg64) :
    encode (decodeRegWr addr d) = header 2#4 addr :: dataWords d := by
  by_cases haddr : addr = cmdAddr
  · rw [haddr, decodeRegWr_cmd, encode_decodeCommand]
  · rw [decodeRegWr_of_ne haddr, encode]

theorem wellFormed_decodeCommand (d : Reg64) : (decodeCommand d).wellFormed = true := by
  unfold decodeCommand
  split
  case h_4 hnop hstart hreset =>
    have hcode : 3 ≤ (d.extractLsb' 0 8).toNat := by grind
    exact decide_eq_true hcode
  all_goals rfl

theorem wellFormed_decodeRegWr (addr : BitVec 24) (d : Reg64) : (decodeRegWr addr d).wellFormed = true := by
  by_cases haddr : addr = cmdAddr
  · rw [haddr, decodeRegWr_cmd, wellFormed_decodeCommand]
  · rw [decodeRegWr_of_ne haddr]
    exact bne_iff_ne.2 haddr

/-! ## Reading the bus, header by header (30_encoding R81, R86) -/

theorem decodeBus_regRd (addr : BitVec 24) (rest : List Word) :
    decodeBus (header 1#4 addr :: rest) = .instr (.regRd addr) rest := by
  simp [decodeBus]

theorem decodeBus_pcmRd (addr : BitVec 24) (rest : List Word) :
    decodeBus (header 3#4 addr :: rest) = .instr (.pcmRd addr) rest := by
  simp [decodeBus]

theorem decodeBus_normRd (addr : BitVec 24) (rest : List Word) :
    decodeBus (header 4#4 addr :: rest) = .instr (.normRd addr) rest := by
  simp [decodeBus]

theorem decodeBus_reserved {h : Word} (hreserved : reservedHeader h = true) (rest : List Word) :
    decodeBus (h :: rest) = .instr (.reservedOp h) rest := by
  have hnone := mt (reservedHeader_eq_false_iff h).2 (ne_of_eq_of_ne hreserved nofun)
  simp only [← BitVec.toNat_inj, BitVec.toNat_ofNat] at hnone
  unfold decodeBus
  split <;> simp_all

theorem decodeBus_command {hi : BitVec 56} {code : BitVec 8} {i : Instr} (hcommand : decodeCommand (hi ++ code) = i)
    (rest : List Word) : decodeBus (commandWords hi code ++ rest) = .instr i rest :=
  hcommand ▸ decodeBus_regWr cmdAddr (hi ++ code) rest

/-- A REG_WR header takes the next two words as its D, the low one first (log 2). -/
theorem decodeBus_regWr_words (addr : BitVec 24) (lo hi : Word) (rest : List Word) :
    decodeBus (header 2#4 addr :: lo :: hi :: rest) = .instr (decodeRegWr addr (hi ++ lo)) rest := by
  have hread := decodeBus_regWr addr (hi ++ lo) rest
  rwa [dataWords, join_low, join_high] at hread

/-- A REG_WR header waits for the two words of its D (log 17). -/
theorem decodeBus_regWr_short (addr : BitVec 24) {rest : List Word} (hlen : rest.length < 2) :
    decodeBus (header 2#4 addr :: rest) = .missingData := by
  match rest, hlen with
  | [], _ => simp [decodeBus]
  | [_], _ => simp [decodeBus]

theorem decodeWave_illegal {w : Word} (hw : 4 ≤ w.toNat) : decodeWave w = .waveIllegal w := by
  unfold decodeWave
  split
  case h_5 => rfl
  all_goals omega

/-! ## Decode and encode agree (30_encoding R80 to R86) -/

theorem decode_encode {i : Instr} (hwf : i.wellFormed = true) (rest : List Word) :
    decode i.port (encode i ++ rest) = .instr i rest := by
  cases i with
  | regRd addr => exact decodeBus_regRd addr rest
  | regWr addr d =>
    have haddr : addr ≠ cmdAddr := bne_iff_ne.1 hwf
    exact (decodeBus_regWr addr d rest).trans (congrArg (Decoded.instr · rest) (decodeRegWr_of_ne haddr d))
  | pcmRd addr => exact decodeBus_pcmRd addr rest
  | normRd addr => exact decodeBus_normRd addr rest
  | reservedOp h => exact decodeBus_reserved hwf rest
  | cmdNop hi => exact decodeBus_command (decodeCommand_nop hi) rest
  | cmdStart hi => exact decodeBus_command (decodeCommand_start hi) rest
  | cmdReset hi => exact decodeBus_command (decodeCommand_reset hi) rest
  | cmdReserved hi code => exact decodeBus_command (decodeCommand_reserved hi (of_decide_eq_true hwf)) rest
  | waveSquare => rfl
  | waveSaw => rfl
  | waveSine => rfl
  | waveNoise => rfl
  | waveIllegal code => exact congrArg (Decoded.instr · rest) (decodeWave_illegal (of_decide_eq_true hwf))

/-- Settles O1: the words of each row are read by the row's own rule. -/
theorem decodeOfEncodeGivesTheInstruction : Obligations.DecodeOfEncodeGivesTheInstruction := by
  unfold Obligations.DecodeOfEncodeGivesTheInstruction
  exact fun _ rest hwf => decode_encode hwf rest

/-- What is read from the bus is well formed, and its own words were read. -/
theorem encode_of_decodeBus {ws rest : List Word} {i : Instr} (hread : decodeBus ws = .instr i rest) :
    i.wellFormed = true ∧ encode i ++ rest = ws := by
  cases ws with
  | nil => nomatch hread
  | cons h tail =>
    cases headerCase h with
    | regRd addr =>
      obtain ⟨rfl, rfl⟩ := Decoded.instr.inj ((decodeBus_regRd addr tail).symm.trans hread)
      exact ⟨rfl, rfl⟩
    | pcmRd addr =>
      obtain ⟨rfl, rfl⟩ := Decoded.instr.inj ((decodeBus_pcmRd addr tail).symm.trans hread)
      exact ⟨rfl, rfl⟩
    | normRd addr =>
      obtain ⟨rfl, rfl⟩ := Decoded.instr.inj ((decodeBus_normRd addr tail).symm.trans hread)
      exact ⟨rfl, rfl⟩
    | reserved _ hreserved =>
      obtain ⟨rfl, rfl⟩ := Decoded.instr.inj ((decodeBus_reserved hreserved tail).symm.trans hread)
      exact ⟨hreserved, rfl⟩
    | regWr addr =>
      match tail with
      | [] => exact absurd ((decodeBus_regWr_short addr (by decide)).symm.trans hread) nofun
      | [_] => exact absurd ((decodeBus_regWr_short addr (by simp)).symm.trans hread) nofun
      | lo :: hi :: tail =>
        obtain ⟨rfl, rfl⟩ := Decoded.instr.inj ((decodeBus_regWr_words addr lo hi tail).symm.trans hread)
        refine ⟨wellFormed_decodeRegWr addr (hi ++ lo), ?_⟩
        rw [encode_decodeRegWr, dataWords, join_low, join_high]
        rfl

/-- What is read from WAVE_TYPE is well formed, belongs to that port, and encodes to the code (30_encoding R85). -/
theorem encode_decodeWave (w : Word) :
    (decodeWave w).wellFormed = true ∧ (decodeWave w).port = .waveType ∧ encode (decodeWave w) = [w] := by
  unfold decodeWave
  split
  case h_5 hsquare hsaw hsine hnoise =>
    have hcode : 4 ≤ w.toNat := by grind
    exact ⟨decide_eq_true hcode, rfl, rfl⟩
  all_goals
    next hcode => exact ⟨rfl, rfl, congrArg (fun v => [v]) (BitVec.eq_of_toNat_eq hcode.symm)⟩

/-- Settles O2: port by port, and on the bus header by header. -/
theorem encodeOfDecodeGivesTheWords : Obligations.EncodeOfDecodeGivesTheWords := by
  unfold Obligations.EncodeOfDecodeGivesTheWords
  intro p ws rest i hread
  cases p with
  | bus =>
    obtain ⟨hwf, hwords⟩ := encode_of_decodeBus hread
    exact ⟨hwf, Machine.port_of_decodeBus hread, hwords⟩
  | waveType =>
    cases ws with
    | nil => nomatch hread
    | cons w tail =>
      obtain ⟨rfl, rfl⟩ := Decoded.instr.inj hread
      obtain ⟨hwf, hport, hwords⟩ := encode_decodeWave w
      exact ⟨hwf, hport, congrArg (· ++ tail) hwords⟩

/-! ## The length of a transaction (30_encoding R86, 40_host_ops R109) -/

/-- Every header but a REG_WR's is a whole transaction. -/
theorem decodeBus_one_word {h : Word} (hlength : h.extractLsb' 24 8 ≠ 0x20#8) (rest : List Word) :
    ∃ i, decodeBus (h :: rest) = .instr i rest := by
  cases headerCase h with
  | regRd addr => exact ⟨_, decodeBus_regRd addr rest⟩
  | regWr addr => exact absurd ((lengthField_eq_iff _).2 ⟨addr, rfl⟩) hlength
  | pcmRd addr => exact ⟨_, decodeBus_pcmRd addr rest⟩
  | normRd addr => exact ⟨_, decodeBus_normRd addr rest⟩
  | reserved _ hreserved => exact ⟨_, decodeBus_reserved hreserved rest⟩

/-- Settles O3: H[31:24] is 0x20 in a REG_WR header alone, the only one that reads past itself. -/
theorem everyHeaderDecodesAtItsLength : Obligations.EveryHeaderDecodesAtItsLength := by
  unfold Obligations.EveryHeaderDecodesAtItsLength
  refine ⟨fun h lo hi rest => ?_, fun h rest hlength => decodeBus_one_word hlength rest,
    fun h rest hlength hshort => ?_, fun w rest => ⟨decodeWave w, rfl⟩⟩
  · split
    next hlength =>
      obtain ⟨addr, rfl⟩ := (lengthField_eq_iff h).1 hlength
      exact ⟨_, decodeBus_regWr_words addr lo hi rest⟩
    next hlength => exact decodeBus_one_word hlength (lo :: hi :: rest)
  · obtain ⟨addr, rfl⟩ := (lengthField_eq_iff h).1 hlength
    exact decodeBus_regWr_short addr hshort

end Sys2Proof

namespace Sys2Proof.Machine

/-! ## A write to CMD (30_encoding R84, 40_host_ops R101) -/

/-- Command(c), one code after the other (40_host_ops R103 to R106). -/
theorem command_eq (c : BitVec 8) (s : State) :
    command c s =
      if c = 0x00#8 then s
      else if c = 0x01#8 then startCommand s
      else if c = 0x02#8 then resetCommand s
      else stickyCmd s := by
  simp only [command, ← BitVec.toNat_inj, BitVec.toNat_ofNat]
  split <;> simp_all

theorem exec_decodeCommand (d : Reg64) (s : State) :
    exec (decodeCommand d) s = .next (command (d.extractLsb' 0 8) s) := by
  rw [decodeCommand_eq, command_eq]
  split_ifs <;> rfl

theorem exec_regWr_cmd (d : Reg64) (s : State) :
    exec (.regWr cmdAddr d) s = .next (command (d.extractLsb' 0 8) s) :=
  exec_regWr_addrOfReg .cmd d s

/-- Settles O14: the register write and the command it decodes to both run Command(D[7:0]). -/
theorem cmdWriteIsItsCommand : Obligations.CmdWriteIsItsCommand := by
  unfold Obligations.CmdWriteIsItsCommand
  intro s d
  rw [← cmdAddr, decodeRegWr_cmd]
  exact ⟨(exec_regWr_cmd d s).trans (exec_decodeCommand d s).symm, decodeCommand_eq d⟩

/-! ## The printed examples (30_encoding R89) -/

theorem bits_sixteen : (AsmValue.f64 false 16 1).bits = 0x4030000000000000#64 := by decide +kernel

/-- Settles O4: each line assembles to the printed words, and the words of an instruction decode to it. -/
theorem exampleWordsDecodeAsPrinted : Obligations.ExampleWordsDecodeAsPrinted := by
  unfold Obligations.ExampleWordsDecodeAsPrinted
  have hperiod : assemble (.regWr (.name (.cfg .period)) (.f64 false 16 1)) = .regWr 0x11#24 0x4030000000000000#64 := by
    rw [assemble, bits_sixteen]
    rfl
  rw [hperiod]
  exact ⟨decode_encode (i := .regWr 0x11#24 0x4030000000000000#64) rfl [],
    decode_encode (i := .regWr 0x22#24 4#64) rfl [], decode_encode (i := .cmdStart 0#56) rfl [],
    decode_encode (i := .cmdReset 0#56) rfl [], decode_encode (i := .regRd 0x02#24) rfl [],
    decode_encode (i := .pcmRd 5#24) rfl [], decode_encode (i := .normRd 0x1F#24) rfl [],
    rfl, rfl, rfl, rfl, rfl, rfl, rfl⟩

/-! ## The waveform of each shape (42_oscillator R153 to R156) -/

/-- A phase within the period selects an entry of the noise table (42_oscillator R156). -/
theorem noiseIndex_lt {phase iper : Nat} (hphase : phase < iper) : noiseIndex phase iper < 32 := by
  rw [noiseIndex, Nat.div_lt_iff_lt_mul (Nat.zero_lt_of_lt hphase)]
  omega

/-- Settles O41: the waveform by shape, and the dispatch by `exec_decodeWave`. -/
theorem waveformOfEachShape : Obligations.WaveformOfEachShape := by
  unfold Obligations.WaveformOfEachShape
  intro iper s fp d
  refine ⟨rfl, rfl, rfl, fun hphase => ⟨noiseIndex_lt hphase, rfl⟩, rfl,
    exec_decodeWave 0#32 s, exec_decodeWave 1#32 s, exec_decodeWave 2#32 s, exec_decodeWave 3#32 s,
    fun w hw => ⟨decodeWave_illegal hw, ?_⟩⟩
  rw [exec_decodeWave, (shapeOf_illegal w).2 hw]

end Sys2Proof.Machine

namespace Sys2Proof.Machine

/-! ## What the host may change during a run (40_host_ops R102)

A state in which the host has acted is the same state under other values of the host's fields. Every operation of a
tick neither reads nor writes these fields, so it commutes with setting them. -/

/-- The fields in which two states of one run may differ. -/
structure HostFields where
  evt : Bool
  errBusy : Bool
  errCmd : Bool
  errCfg : Bool
  errAddr : Bool
  response : Reg64
  bus : List Word
  turns : List Agent

/-- The state under other values of the host's fields. -/
def State.withHost (h : HostFields) (s : State) : State :=
  { s with
    status := { s.status with
      evt := h.evt, errBusy := h.errBusy, errCmd := h.errCmd, errCfg := h.errCfg, errAddr := h.errAddr }
    response := h.response
    bus := h.bus
    turns := h.turns }

/-- The host's fields of a state. -/
def State.hostFields (s : State) : HostFields where
  evt := s.status.evt
  errBusy := s.status.errBusy
  errCmd := s.status.errCmd
  errCfg := s.status.errCfg
  errAddr := s.status.errAddr
  response := s.response
  bus := s.bus
  turns := s.turns

theorem sameRun_withHost (h : HostFields) (s : State) : SameRun s (s.withHost h) := ⟨rfl, rfl, rfl, rfl, rfl⟩

/-- A state of the same run is the state under other values of the host's fields. -/
theorem SameRun.eq_withHost {s t : State} (h : SameRun s t) : t = s.withHost t.hostFields := by
  obtain ⟨hstate, hend, hfault, hnan, hrest⟩ := h
  calc t = ((s.setStatus t.status).setResponse t.response).setInputs t.bus t.turns := hrest
    _ = s.withHost t.hostFields := by
      simp only [State.withHost, ← hstate, ← hend, ← hfault, ← hnan]; rfl

/-- The operation neither reads nor writes the host's fields. -/
def HostBlind (f : State → State) : Prop := ∀ h s, f (s.withHost h) = (f s).withHost h

theorem HostBlind.id : HostBlind fun s => s := fun _ _ => rfl

theorem HostBlind.comp {f g : State → State} (hg : HostBlind g) (hf : HostBlind f) : HostBlind fun s => g (f s) :=
  fun h s => (congrArg g (hf h s)).trans (hg h (f s))

/-- A choice between two such operations, made without reading the host's fields. -/
theorem HostBlind.ite {c : State → Prop} [DecidablePred c] {f g : State → State}
    (hc : ∀ h s, c (s.withHost h) ↔ c s) (hf : HostBlind f) (hg : HostBlind g) :
    HostBlind fun s => if c s then f s else g s := by
  intro h s
  by_cases hs : c s
  · simp only [if_pos hs, if_pos ((hc h s).2 hs), hf h s]
  · simp only [if_neg hs, if_neg (mt (hc h s).1 hs), hg h s]

theorem retrigger_blind : HostBlind retrigger :=
  .ite (fun _ _ => Iff.rfl) .id (.ite (fun _ _ => Iff.rfl) (fun _ _ => rfl) (fun _ _ => rfl))

theorem arpeggio_blind : HostBlind arpeggio := .ite (fun _ _ => Iff.rfl) (fun _ _ => rfl) .id

theorem freqSlide_blind : HostBlind freqSlide := fun _ _ => rfl

theorem periodClamp_blind : HostBlind periodClamp := .ite (fun _ _ => Iff.rfl) (fun _ _ => rfl) .id

theorem vibratoAdvance_blind : HostBlind vibratoAdvance := .ite (fun _ _ => Iff.rfl) (fun _ _ => rfl) .id

theorem dutySlide_blind : HostBlind dutySlide := fun _ _ => rfl

theorem envAdvance_blind : HostBlind envAdvance := .ite (fun _ _ => Iff.rfl) (fun _ _ => rfl) (fun _ _ => rfl)

theorem flangerSlide_blind : HostBlind flangerSlide := fun _ _ => rfl

theorem hpfSweep_blind : HostBlind hpfSweep := .ite (fun _ _ => Iff.rfl) (fun _ _ => rfl) .id

theorem phaseAdvance_blind (sh : Shape) (iper : Nat) : HostBlind (phaseAdvance sh iper) :=
  .ite (fun _ _ => Iff.rfl) (fun _ _ => rfl) (.ite (fun _ _ => Iff.rfl) (fun _ _ => rfl) (fun _ _ => rfl))

theorem pitched_blind : HostBlind pitched := (freqSlide_blind.comp arpeggio_blind).comp retrigger_blind

theorem modulated_blind : HostBlind modulated := (vibratoAdvance_blind.comp periodClamp_blind).comp pitched_blind

theorem emitStores_blind (v : F64) : HostBlind (emitStores v) := fun _ _ => rfl

/-! ## Every part of a tick commutes with the host's fields (41_sequencer R120) -/

/-- What steps 2 to 12 come to, with the state in it under other values of the host's fields. -/
def Front.withHost (h : HostFields) : Front → Front
  | .go s iper env ishift => .go (s.withHost h) iper env ishift
  | .ended reason s => .ended reason (s.withHost h)
  | .raised code => .raised code

theorem frontTail_withHost (iper : Nat) (h : HostFields) (s : State) :
    frontTail iper (s.withHost h) = (frontTail iper s).withHost h := by
  have hoffset : (flangerSlide (s.withHost h)).work.flangerOffset = (flangerSlide s).work.flangerOffset := rfl
  unfold frontTail
  rw [hoffset, flangerSlide_blind, hpfSweep_blind]
  cases flangerShift (flangerSlide s).work.flangerOffset <;> rfl

theorem front_withHost (h : HostFields) (s : State) : front (s.withHost h) = (front s).withHost h := by
  unfold front
  dsimp only
  rw [pitched_blind, modulated_blind, periodClamp_blind, dutySlide_blind, envAdvance_blind]
  have hstop : periodStop ((pitched s).withHost h) = periodStop (pitched s) := rfl
  have hperiod : vibratoPeriod ((modulated s).withHost h) = vibratoPeriod (modulated s) := rfl
  have henv : envStop ((dutySlide (modulated s)).withHost h) = envStop (dutySlide (modulated s)) := rfl
  rw [hstop, hperiod, henv]
  cases periodStop (pitched s) with
  | true => rfl
  | false =>
    cases intPeriod (vibratoPeriod (modulated s)) with
    | none => rfl
    | some iper =>
      cases envStop (dutySlide (modulated s)) with
      | true => rfl
      | false => exact frontTail_withHost iper h _

/-- A pair of a state and ACC, the state under other values of the host's fields. -/
def pairWithHost (h : HostFields) (p : State × F64) : State × F64 := (p.1.withHost h, p.2)

theorem subSample_withHost (sh : Shape) (iper : Nat) (env : F64) (ishift : Nat) (h : HostFields) (p : State × F64) :
    subSample sh iper env ishift (pairWithHost h p) = (subSample sh iper env ishift p).map (pairWithHost h) := by
  unfold subSample pairWithHost
  rw [phaseAdvance_blind]
  have hwave : waveform sh iper ((phaseAdvance sh iper p.1).withHost h) = waveform sh iper (phaseAdvance sh iper p.1) := by
    cases sh <;> rfl
  rw [hwave]
  cases waveform sh iper (phaseAdvance sh iper p.1) <;> rfl

theorem subSamples_withHost (sh : Shape) (iper : Nat) (env : F64) (ishift : Nat) (h : HostFields) (n : Nat)
    (p : State × F64) :
    subSamples sh iper env ishift n (pairWithHost h p) =
      (subSamples sh iper env ishift n p).map (pairWithHost h) := by
  induction n generalizing p with
  | zero => rfl
  | succ n ih =>
    rw [subSamples, subSamples, subSample_withHost]
    cases subSample sh iper env ishift p with
    | none => rfl
    | some q => exact ih q

theorem emit_withHost (v : F64) (h : HostFields) (s : State) :
    emit v (s.withHost h) = (emit v s).map (State.withHost h) := by
  have hroom : (s.withHost h).count.outCount < (s.withHost h).outDepth ↔ s.count.outCount < s.outDepth := Iff.rfl
  simp only [emit, hroom, emitStores_blind v h s]
  split <;> rfl

theorem decimate_withHost (acc : F64) (h : HostFields) (s : State) :
    decimate acc (s.withHost h) = (decimate acc s).map (State.withHost h) := by
  by_cases hfull : s.cfg.summands ≤ s.run.numSummed + 1
  · have hfull' : (s.withHost h).cfg.summands ≤ (s.withHost h).run.numSummed + 1 := hfull
    rw [decimate, decimate, if_pos hfull, if_pos hfull', ← emit_withHost]
    rfl
  · have hfull' : ¬ (s.withHost h).cfg.summands ≤ (s.withHost h).run.numSummed + 1 := hfull
    rw [decimate, decimate, if_neg hfull, if_neg hfull']
    rfl

theorem endRun_sameRun (reason : EndReason) (h : HostFields) (s : State) :
    SameRun (endRun reason s) (endRun reason (s.withHost h)) := ⟨rfl, rfl, rfl, rfl, rfl⟩

theorem raiseFault_sameRun (code : FaultCode) (h : HostFields) (s : State) :
    SameRun (raiseFault code s) (raiseFault code (s.withHost h)) := ⟨rfl, rfl, rfl, rfl, rfl⟩

theorem tickBack_sameRun {sh : Shape} {before s s' : State} {iper : Nat} {env : F64} {ishift : Nat} (h : HostFields)
    (hs : tickBack sh before s iper env ishift = .next s') :
    ∃ t', tickBack sh (before.withHost h) (s.withHost h) iper env ishift = .next t' ∧ SameRun s' t' := by
  have hsub := subSamples_withHost sh iper env ishift h 8 (s, Fp.zero)
  rw [pairWithHost] at hsub
  unfold tickBack at hs ⊢
  rw [hsub]
  generalize subSamples sh iper env ishift 8 (s, Fp.zero) = r at hs ⊢
  cases r with
  | none =>
    cases hs
    exact ⟨_, rfl, raiseFault_sameRun .badWave h before⟩
  | some p =>
    obtain ⟨u, acc⟩ := p
    dsimp only [Option.map_some, pairWithHost] at hs ⊢
    rw [decimate_withHost]
    generalize decimate acc u = r at hs ⊢
    cases r with
    | none => cases hs
    | some v =>
      cases hs
      exact ⟨_, rfl, sameRun_withHost h _⟩

/-- The host's fields do not change what a tick comes to (41_sequencer R120, 40_host_ops R102). -/
theorem tick_sameRun {sh : Shape} {s s' : State} (h : HostFields) (hs : tick sh s = .next s') :
    ∃ t', tick sh (s.withHost h) = .next t' ∧ SameRun s' t' := by
  by_cases hb : s.status.state = .busy
  · rw [tick, if_pos hb] at hs
    rw [tick, if_pos (show (s.withHost h).status.state = .busy from hb)]
    by_cases hc : s.maxTicks ≤ s.count.tickCount
    · rw [if_pos hc] at hs
      rw [if_pos (show (s.withHost h).maxTicks ≤ (s.withHost h).count.tickCount from hc)]
      cases hs
      exact ⟨_, rfl, endRun_sameRun .tickCap h s⟩
    · rw [if_neg hc] at hs
      rw [if_neg (show ¬ (s.withHost h).maxTicks ≤ (s.withHost h).count.tickCount from hc), front_withHost]
      generalize front s = r at hs ⊢
      cases r with
      | ended reason u =>
        cases hs
        exact ⟨_, rfl, endRun_sameRun reason h u⟩
      | raised code =>
        cases hs
        exact ⟨_, rfl, raiseFault_sameRun code h s⟩
      | go u iper env ishift => exact tickBack_sameRun h hs
  · rw [tick, if_neg hb] at hs
    rw [tick, if_neg (show ¬ (s.withHost h).status.state = .busy from hb)]
    cases hs
    exact ⟨_, rfl, sameRun_withHost h s⟩

/-- Settles O24: the two states differ in the host's fields alone, and the tick does the same under any of them. -/
theorem ticksIgnoreTheHost : Obligations.TicksIgnoreTheHost := by
  unfold Obligations.TicksIgnoreTheHost
  intro s t s' w _ hst hs
  rw [exec_decodeWave] at hs ⊢
  rw [hst.eq_withHost]
  exact tick_sameRun t.hostFields hs

/-! ## What the host does to a run (40_host_ops R102) -/

/-- Settles O23: while BUSY a host transaction is an answer; it is no accepted write, START or RESET. -/
theorem hostLeavesTheRunAlone : Obligations.HostLeavesTheRunAlone := by
  unfold Obligations.HostLeavesTheRunAlone
  intro i s t hport hbusy hexec
  obtain ⟨u, hu, hcase⟩ := exec_bus_cases i hport s
  obtain rfl : u = t := Host.Outcome.next.inj (hu.symm.trans hexec)
  cases hcase with
  | answered v r hv ht =>
    subst ht
    exact ⟨hv.state, hv.endReason, hv.faultCode, hv.nanSeen, rfl⟩
  | ctrl _ hidle _ => exact absurd hbusy hidle
  | cfg _ hidle _ => exact absurd hbusy hidle
  | started hidle _ _ => exact absurd hbusy hidle
  | reset hidle _ => exact absurd hbusy hidle

/-! ## No step stops (40_host_ops R109, 46_output R203) -/

/-- With room for a sample, steps 13 to 16 answer a next state. -/
theorem tickBack_answers {before s : State} (sh : Shape) (iper : Nat) (env : F64) (ishift : Nat)
    (hroom : s.count.outCount < s.outDepth) : ∃ t, tickBack sh before s iper env ishift = .next t := by
  unfold tickBack
  cases hs : subSamples sh iper env ishift 8 (s, Fp.zero) with
  | none => exact ⟨_, rfl⟩
  | some p =>
    obtain ⟨u, acc⟩ := p
    obtain ⟨w, r, f, n, d, rfl⟩ := subSamples_frame hs
    obtain ⟨v, hv⟩ := decimate_isSome acc (s := (((s.setWork w).setRun r).setFbuf f).setNbuf n d) hroom
    exact ⟨countTick v, by simp only [hv]⟩

/-- A tick that reaches its sub-samples goes into them with the state `primed`. -/
theorem front_eq_go {s u : State} {iper ishift : Nat} {env : F64} (h : front s = .go u iper env ishift) :
    u = primed s := by
  rcases front_cases s with ⟨-, hf⟩ | ⟨-, -, hf⟩ | ⟨_, -, -, -, hf⟩ | ⟨_, -, -, -, -, hf⟩ | ⟨_, _, -, -, -, -, hf⟩ <;>
    rw [hf] at h <;> cases h
  rfl

/-- A tick answers a next state if a run with ticks left has room for a sample. -/
theorem tick_answers (sh : Shape) {s : State}
    (hroom : s.status.state = .busy → s.count.tickCount < s.maxTicks → s.count.outCount < s.outDepth) :
    ∃ t, tick sh s = .next t := by
  by_cases hb : s.status.state = .busy
  · rw [tick, if_pos hb]
    by_cases hc : s.maxTicks ≤ s.count.tickCount
    · exact ⟨_, if_pos hc⟩
    · rw [if_neg hc]
      cases hf : front s with
      | ended reason u => exact ⟨_, rfl⟩
      | raised code => exact ⟨_, rfl⟩
      | go u iper env ishift =>
        obtain rfl := front_eq_go hf
        obtain ⟨w, r, hp⟩ := primed_voice s
        exact tickBack_answers sh iper env ishift (hp ▸ hroom hb (Nat.not_le.1 hc))
  · exact ⟨_, if_neg hb⟩

/-- A run with ticks left has room for a sample (46_output R203). -/
theorem StateInv.room {s : State} (h : StateInv s) (hc : s.count.tickCount < s.maxTicks) :
    s.count.outCount < s.outDepth :=
  h.outputs.trans_lt (hc.trans_le h.params.2.1)

/-- Settles O58: a host transaction always completes, and a tick does since every sample has its address. -/
theorem stepNeverStops : Obligations.StepNeverStops := by
  unfold Obligations.StepNeverStops
  intro s h
  rcases step_eq s with ⟨-, htick⟩ | ⟨i, rest, -, hdecode, hexec⟩ | ⟨-, hidle⟩
  · rw [htick]
    exact tick_answers _ fun _ hc => (h.advanced s.bus).room hc
  · obtain ⟨t, ht, -⟩ := exec_bus_cases i (port_of_decodeBus hdecode) (advanced s rest)
    exact ⟨t, hexec.trans ht⟩
  · exact ⟨_, hidle⟩

/-! ## Register reads (40_host_ops R100) -/

theorem exec_regRd_unmapped {a : BitVec 24} (h : regOfAddr a = none) (s : State) :
    exec (.regRd a) s = .next ((stickyAddr s).setResponse 0#64) := by
  rw [exec, execRegRd, h]

theorem exec_regRd_addrOfReg (r : Reg) (s : State) :
    exec (.regRd (addrOfReg r)) s = .next (s.setResponse (readReg s r)) := by
  rw [exec, execRegRd, regOfAddr_addrOfReg]

/-- The registers in the order of their indices (10_state R22 to R32). -/
def Reg.all : List Reg :=
  [.ro .id, .cmd, .status, .ctrl] ++
    ([.outCount, .clipCount, .tickCount, .faultTick, .maxTicks, .outDepth] : List RoReg).map .ro ++
    cfgRegs.map .cfg ++
    ([.wPeriod, .wPeriodMult, .wDuty, .wArpTime, .wFltw, .wFlthp, .wFlangerOffset, .envStage, .envElapsed, .vibPhase,
      .phase, .ipp, .fltp, .fltdp, .fltphp, .repElapsed, .sampleSum, .numSummed] : List RoReg).map .ro

/-- Every register of a list of indices and values reads as the value beside its index. -/
theorem exec_regRd_of_mem (s : State) (regs : List Reg) {p : Nat × Reg64}
    (hp : p ∈ regs.map fun r => ((addrOfReg r).toNat, readReg s r)) :
    exec (.regRd (BitVec.ofNat 24 p.1)) s = .next (s.setResponse p.2) := by
  obtain ⟨r, -, rfl⟩ := List.mem_map.1 hp
  rw [BitVec.ofNat_toNat, BitVec.setWidth_eq]
  exact exec_regRd_addrOfReg r s

/-- Settles O8: the stated values are `readReg` of each register, in the order of the indices. -/
theorem regRdReadsEveryRegister : Obligations.RegRdReadsEveryRegister := by
  unfold Obligations.RegRdReadsEveryRegister
  intro s
  refine ⟨fun a ha => ?_, fun p hp => exec_regRd_of_mem s Reg.all hp⟩
  exact exec_regRd_unmapped ((regOfAddr_eq_none a).2 ha) s

/-! ## Register writes (40_host_ops R101, R102) -/

theorem guardedWrite_busy {s : State} (h : s.status.state = .busy) (t : State) : guardedWrite s t = stickyBusy s :=
  if_pos ((busy_eq_true s).2 h)

theorem guardedWrite_of_not_busy {s : State} (h : s.status.state ≠ .busy) (t : State) : guardedWrite s t = t :=
  if_neg (mt (busy_eq_true s).1 h)

/-- Settles O9: the write is `storeCfg`, and each register reads from the CFG registers alone. -/
theorem cfgWriteReadsBackInItsFormat : Obligations.CfgWriteReadsBackInItsFormat := by
  unfold Obligations.CfgWriteReadsBackInItsFormat
  intro s a d ha hidle
  obtain ⟨r, rfl⟩ := cfgReg_of_index ha
  refine ⟨storeCfg s.cfg r d, ?_, ?_, fun b v hb hne hread => ?_⟩
  · rw [exec_regWr_addrOfReg, writeReg, guardedWrite_of_not_busy hidle]
  · rw [exec_regRd_addrOfReg, readReg, setCfg_cfg, readCfg_storeCfg_same]
  · obtain ⟨q, rfl⟩ := cfgReg_of_index hb
    rw [exec_regRd_addrOfReg, readReg] at hread
    have hv : readCfg s.cfg q = v := congrArg State.response (Host.Outcome.next.inj hread)
    have hqr : q ≠ r := fun h => hne (h ▸ rfl)
    rw [exec_regRd_addrOfReg, readReg, setCfg_cfg, readCfg_storeCfg_other hqr, hv]

/-- Settles O10: CTRL is the register of index 3, and outside BUSY its write is accepted. -/
theorem ctrlWriteStoresTwoBits : Obligations.CtrlWriteStoresTwoBits := by
  unfold Obligations.CtrlWriteStoresTwoBits
  intro s d hidle
  calc exec (.regWr (addrOfReg .ctrl) d) s = .next (writeReg .ctrl d s) := exec_regWr_addrOfReg .ctrl d s
    _ = .next (s.setCtrl (Ctrl.ofBits d)) := by rw [writeReg, guardedWrite_of_not_busy hidle]

/-! ## START and RESET in every STATE (40_host_ops R104, R105) -/

theorem exec_cmdStart (hi : BitVec 56) (s : State) : exec (.cmdStart hi) s = .next (startCommand s) := rfl

theorem exec_cmdReset (hi : BitVec 56) (s : State) : exec (.cmdReset hi) s = .next (resetCommand s) := rfl

theorem startCommand_busy {s : State} (h : s.status.state = .busy) : startCommand s = stickyBusy s :=
  if_pos ((busy_eq_true s).2 h)

theorem resetCommand_busy {s : State} (h : s.status.state = .busy) : resetCommand s = stickyBusy s :=
  if_pos ((busy_eq_true s).2 h)

theorem startCommand_of_not_busy {s : State} (h : s.status.state ≠ .busy) :
    startCommand s = if s.cfg.legal then initRun s else stickyCfg s :=
  if_neg (mt (busy_eq_true s).1 h)

theorem resetCommand_of_not_busy {s : State} (h : s.status.state ≠ .busy) : resetCommand s = softReset s :=
  if_neg (mt (busy_eq_true s).1 h)

/-- Settles O13: each of the four tests BUSY first. -/
theorem busyWritesAreRefused : Obligations.BusyWritesAreRefused := by
  unfold Obligations.BusyWritesAreRefused
  intro s hbusy
  rw [← stickyBusy_eq]
  refine ⟨fun a d ha => ?_, fun hi => ?_, fun hi => ?_⟩
  · rcases ha with hctrl | hcfg
    · obtain rfl : a = addrOfReg .ctrl := BitVec.eq_of_toNat_eq hctrl
      rw [exec_regWr_addrOfReg, writeReg, guardedWrite_busy hbusy]
    · obtain ⟨r, rfl⟩ := cfgReg_of_index hcfg
      rw [exec_regWr_addrOfReg, writeReg, guardedWrite_busy hbusy]
  · rw [exec_cmdStart, startCommand_busy hbusy]
  · rw [exec_cmdReset, resetCommand_busy hbusy]

/-! ## The W1C write of STATUS (10_state R23) -/

/-- A W1C write leaves every other bit of the STATUS word, wherever the field it belongs to stands. -/
theorem toBits_getLsbD_writeOneToClear_other (v : Status) (d : Reg64) {i : Nat} (h : i ∉ [2, 16, 17, 18, 19]) :
    (v.writeOneToClear d).toBits.getLsbD i = v.toBits.getLsbD i := by
  simp only [List.mem_cons, List.not_mem_nil, or_false, not_or] at h
  simp only [Status.toBits, Status.writeOneToClear, BitVec.getLsbD_append]
  grind

/-- A W1C write clears a W1C bit if the bit written there is 1. -/
theorem toBits_getLsbD_writeOneToClear_w1c (v : Status) (d : Reg64) {i : Nat} (h : i ∈ [2, 16, 17, 18, 19]) :
    (v.writeOneToClear d).toBits.getLsbD i = (v.toBits.getLsbD i && !d.getLsbD i) := by
  obtain ⟨hevt, -, hbusy, hcmd, hcfg, haddr, -⟩ := toBits_flags v
  obtain ⟨hevt', -, hbusy', hcmd', hcfg', haddr', -⟩ := toBits_flags (v.writeOneToClear d)
  simp only [List.mem_cons, List.not_mem_nil, or_false] at h
  rcases h with rfl | rfl | rfl | rfl | rfl
  · rw [hevt', hevt]; rfl
  · rw [hbusy', hbusy]; rfl
  · rw [hcmd', hcmd]; rfl
  · rw [hcfg', hcfg]; rfl
  · rw [haddr', haddr]; rfl

theorem w1cMask_getLsbD : ∀ i < 64, (0x00000000000F0004#64).getLsbD i = decide (i ∈ [2, 16, 17, 18, 19]) := by decide

/-- The W1C write as a mask on the STATUS word. -/
theorem toBits_writeOneToClear (v : Status) (d : Reg64) :
    (v.writeOneToClear d).toBits = v.toBits &&& ~~~(d &&& 0x00000000000F0004#64) := by
  apply BitVec.eq_of_getLsbD_eq
  intro i hi
  rw [BitVec.getLsbD_and, BitVec.getLsbD_not, BitVec.getLsbD_and, w1cMask_getLsbD i hi]
  by_cases hmem : i ∈ [2, 16, 17, 18, 19]
  · rw [toBits_getLsbD_writeOneToClear_w1c v d hmem]
    simp [hmem, hi]
  · rw [toBits_getLsbD_writeOneToClear_other v d hmem]
    simp [hmem, hi]

/-- Settles O11: the fields that `writeOneToClear` clears are the bits of the mask. -/
theorem statusWriteClearsWrittenBits : Obligations.StatusWriteClearsWrittenBits := by
  unfold Obligations.StatusWriteClearsWrittenBits
  intro s d
  exact ⟨s.status.writeOneToClear d, exec_regWr_addrOfReg .status d s, toBits_writeOneToClear s.status d⟩

/-! ## Commands (40_host_ops R103 to R106) -/

/-- A REG_WR to CMD runs Command(D[7:0]). -/
theorem exec_decodeRegWr_cmd (d : Reg64) (s : State) :
    exec (decodeRegWr cmdAddr d) s = .next (command (d.extractLsb' 0 8) s) := by
  rw [decodeRegWr_cmd, exec_decodeCommand]

/-- Settles O15: Command(0) is the state itself. -/
theorem nopLeavesAllStateUnchanged : Obligations.NopLeavesAllStateUnchanged := by
  unfold Obligations.NopLeavesAllStateUnchanged
  intro s
  refine ⟨fun _ => rfl, fun d hcode => ?_⟩
  rw [← cmdAddr, exec_decodeRegWr_cmd, command_eq, if_pos hcode]

theorem command_reserved {c : BitVec 8} (hc : 3 ≤ c.toNat) (s : State) : command c s = stickyCmd s := by
  have hne : ∀ n < 3, c ≠ BitVec.ofNat 8 n := by
    rintro n hn rfl
    simp at hc
    omega
  rw [command_eq, if_neg (hne 0 (by decide)), if_neg (hne 1 (by decide)), if_neg (hne 2 (by decide))]

/-- Settles O18: every code from 3 on sets ERR_CMD, without a test of STATE. -/
theorem reservedCommandSetsErrCmd : Obligations.ReservedCommandSetsErrCmd := by
  unfold Obligations.ReservedCommandSetsErrCmd
  intro s
  rw [← stickyCmd_eq]
  refine ⟨fun _ _ => rfl, fun d hcode => ?_⟩
  rw [← cmdAddr, exec_decodeRegWr_cmd, command_reserved hcode]

/-- Settles O16: the two tests of START in their order, and InitRun as a state equation (10_state R45). -/
theorem startInitialisesTheRun : Obligations.StartInitialisesTheRun := by
  unfold Obligations.StartInitialisesTheRun
  intro hi s
  rw [exec_cmdStart]
  by_cases hbusy : s.status.state = .busy
  · rw [if_pos hbusy, startCommand_busy hbusy, stickyBusy_eq]
  rw [if_neg hbusy, startCommand_of_not_busy hbusy]
  by_cases hlegal : s.cfg.legal = true
  · have hlegal' := (Cfg.legal_iff s.cfg).1 hlegal
    rw [if_pos hlegal, if_neg (by tauto), initRun_eq]
    rfl
  · have hlegal' := mt (Cfg.legal_iff s.cfg).2 hlegal
    rw [if_neg hlegal, if_pos (by tauto), stickyCfg_eq]

/-- Settles O17: outside BUSY the command is the soft reset, given as a state equation. -/
theorem resetCommandClearsRunState : Obligations.ResetCommandClearsRunState := by
  unfold Obligations.ResetCommandClearsRunState
  intro hi s
  rw [exec_cmdReset]
  by_cases hbusy : s.status.state = .busy
  · rw [if_pos hbusy, resetCommand_busy hbusy, stickyBusy_eq]
  · rw [if_neg hbusy, resetCommand_of_not_busy hbusy, softReset_eq]
    rfl

/-! ## Output transactions (40_host_ops R107, R108) -/

/-- Settles O19: the range test, and the byte that the memory lists (20_memory R62). -/
theorem pcmRdReadsTheWrittenByte : Obligations.PcmRdReadsTheWrittenByte := by
  unfold Obligations.PcmRdReadsTheWrittenByte
  intro a s
  refine ⟨fun hout => if_pos hout, fun hin => ⟨if_neg (Nat.not_le.2 hin), fun b hb => ?_⟩⟩
  rw [readPcm, hb, Option.getD_some]

/-- Settles O20: the range test, and the entry that the memory lists (20_memory R62). -/
theorem normRdReadsTheWrittenEntry : Obligations.NormRdReadsTheWrittenEntry := by
  unfold Obligations.NormRdReadsTheWrittenEntry
  intro a s
  refine ⟨fun hout => if_pos hout, fun hin => ⟨if_neg (Nat.not_le.2 hin), fun w hw => ?_⟩⟩
  rw [readNorm, hw, Option.getD_some]

end Sys2Proof.Machine

namespace Sys2Proof.Machine

/-! ## Retrigger and arpeggio (41_sequencer R122, R123) -/

theorem toNat_eq_zero_iff {n : Nat} (x : BitVec n) : x.toNat = 0 ↔ x = 0#n :=
  (BitVec.toNat_eq (x := x) (y := 0#n)).symm

/-- Settles O37, branch by branch: no retrigger, the reload, the count. -/
theorem retriggerReloadsEveryRepeatTime : Obligations.RetriggerReloadsEveryRepeatTime := by
  unfold Obligations.RetriggerReloadsEveryRepeatTime
  intro s
  unfold retrigger
  simp only [toNat_eq_zero_iff]
  by_cases hoff : s.cfg.repeatTime = 0#32
  · rw [if_pos hoff, if_pos hoff]
  rw [if_neg hoff, if_neg hoff]
  by_cases hdue : s.cfg.repeatTime.toNat ≤ s.run.repElapsed + 1
  · rw [if_pos hdue, if_neg (Nat.not_lt.2 hdue)]
    rfl
  · rw [if_neg hdue, if_pos (Nat.not_le.1 hdue)]
    rfl

theorem arpeggio_eq (s : State) :
    arpeggio s =
      if s.work.arpTime ≠ 0#32 ∧ s.work.arpTime.toNat ≤ s.count.tickCount then
        { s with work := { s.work with arpTime := 0#32, period := Fp.mul s.work.period s.cfg.arpMult } }
      else s := by
  simp only [arpeggio, ne_eq, toNat_eq_zero_iff]
  rfl

/-- With W_ARP_TIME at 0 there is no arpeggio. -/
theorem arpeggio_of_arpTime_zero {s : State} (h : s.work.arpTime = 0#32) : arpeggio s = s := by
  rw [arpeggio_eq, if_neg fun hfires => hfires.1 h]

/-- Settles O38: an arpeggio that fires leaves W_ARP_TIME at 0, and one that does not leaves the state. -/
theorem arpeggioFiresOnce : Obligations.ArpeggioFiresOnce := by
  unfold Obligations.ArpeggioFiresOnce
  intro s
  refine ⟨arpeggio_eq s, ?_⟩
  by_cases hfires : s.work.arpTime ≠ 0#32 ∧ s.work.arpTime.toNat ≤ s.count.tickCount
  · apply arpeggio_of_arpTime_zero
    rw [arpeggio_eq, if_pos hfires]
  · have hkept : arpeggio s = s := by rw [arpeggio_eq, if_neg hfires]
    rw [hkept, hkept]

/-! ## The branches of a tick that make no sub-sample (41_sequencer R120, R121) -/

theorem tick_of_not_busy (sh : Shape) {s : State} (h : s.status.state ≠ .busy) : tick sh s = .next s := if_neg h

theorem tick_of_cap (sh : Shape) {s : State} (hb : s.status.state = .busy) (hc : s.maxTicks ≤ s.count.tickCount) :
    tick sh s = .next (endRun .tickCap s) := by
  rw [tick, if_pos hb, if_pos hc]

theorem tick_of_cutoff (sh : Shape) {s : State} (hb : s.status.state = .busy) (hc : s.count.tickCount < s.maxTicks)
    (hp : periodStop (pitched s) = true) : tick sh s = .next (endRun .freqCutoff (periodClamp (pitched s))) := by
  rw [tick, if_pos hb, if_neg (Nat.not_le.2 hc), front, if_pos hp]

/-- Settles O25: the first test of a tick is BUSY (log 16). -/
theorem idleBlockDoesNothing : Obligations.IdleBlockDoesNothing := by
  unfold Obligations.IdleBlockDoesNothing
  intro s w hidle
  rw [exec_decodeWave, tick_of_not_busy _ hidle]

/-- Settles O32: the second test of a tick is the cap, and end() writes STATUS alone. -/
theorem tickCapEndsTheRun : Obligations.TickCapEndsTheRun := by
  unfold Obligations.TickCapEndsTheRun
  intro s w hbusy hcap
  rw [exec_decodeWave, tick_of_cap _ hbusy hcap, endRun_eq]

/-! ## The working registers after the steps before the sub-samples

In each, `arpeggio (retrigger s)` holds the registers the frequency slide starts from (42_oscillator R140). -/

/-- W_PERIOD_MULT of a tick after its frequency slide (42_oscillator R140). -/
def slidMult (s : State) : F64 := Fp.add (arpeggio (retrigger s)).work.periodMult s.cfg.periodMultSlide

/-- W_PERIOD of a tick after its frequency slide (42_oscillator R140). -/
def slidPeriod (s : State) : F64 := Fp.mul (arpeggio (retrigger s)).work.period (slidMult s)

/-- W_PERIOD of a tick after its period limit (42_oscillator R141). -/
def limitedPeriod (s : State) : F64 := if Fp.lt s.cfg.periodMax (slidPeriod s) then s.cfg.periodMax else slidPeriod s

theorem pitched_period (s : State) : (pitched s).work.period = slidPeriod s := by
  rw [pitched_work]; rfl

/-- The period limit stops the run where the slid period passes PERIOD_MAX with CUTOFF_EN (42_oscillator R141). -/
theorem periodStop_iff (s : State) :
    periodStop (pitched s) = true ↔ Fp.lt s.cfg.periodMax (slidPeriod s) = true ∧ s.cfg.cutoffEn = true := by
  rw [periodStop, periodPast, pitched_cfg, pitched_period, Bool.and_eq_true]

theorem limited_voice (s : State) : VoiceOnly s (periodClamp (pitched s)) :=
  (pitched_voice s).trans (periodClamp_voice _)

/-- The working registers after steps 2 to 5. -/
theorem limited_work (s : State) :
    (periodClamp (pitched s)).work =
      { (arpeggio (retrigger s)).work with periodMult := slidMult s, period := limitedPeriod s } := by
  rw [periodClamp_work, pitched_cfg, pitched_period, pitched_work]
  rfl

/-- The working registers after steps 2 to 9. -/
theorem enveloped_work_eq (s : State) :
    (enveloped s).work =
      { (arpeggio (retrigger s)).work with
        periodMult := slidMult s
        period := limitedPeriod s
        duty := clampZeroTo Fp.half (Fp.add (arpeggio (retrigger s)).work.duty s.cfg.dutySlide) } := by
  rw [enveloped_work, modulated_work, limited_work]

theorem flangerSlide_work (s : State) :
    (flangerSlide s).work =
      { s.work with flangerOffset := Fp.add s.work.flangerOffset s.cfg.flangerSlide } := rfl

theorem hpfSweep_work (s : State) :
    (hpfSweep s).work =
      { s.work with
        flthp := if Fp.ne s.cfg.flthpD Fp.zero then clampHighpass (Fp.mul s.work.flthp s.cfg.flthpD)
          else s.work.flthp } := by
  unfold hpfSweep
  split <;> rfl

theorem enveloped_cfg (s : State) : (enveloped s).cfg = s.cfg := by
  obtain ⟨w, r, h⟩ := enveloped_voice s
  rw [h]; rfl

/-- The working registers that the sub-samples start from: steps 2 to 12. -/
theorem primed_work (s : State) :
    (primed s).work =
      { (arpeggio (retrigger s)).work with
        periodMult := slidMult s
        period := limitedPeriod s
        duty := clampZeroTo Fp.half (Fp.add (arpeggio (retrigger s)).work.duty s.cfg.dutySlide)
        flthp := if Fp.ne s.cfg.flthpD Fp.zero then
            clampHighpass (Fp.mul (arpeggio (retrigger s)).work.flthp s.cfg.flthpD)
          else (arpeggio (retrigger s)).work.flthp
        flangerOffset := Fp.add (arpeggio (retrigger s)).work.flangerOffset s.cfg.flangerSlide } := by
  have hcfg : (flangerSlide (enveloped s)).cfg = s.cfg := by rw [flangerSlide, setWork_cfg, enveloped_cfg]
  rw [primed, hpfSweep_work, hcfg, flangerSlide_work, enveloped_cfg, enveloped_work_eq]

/-- RF of a tick: its limited period, bent by the vibrato at the advanced phase (42_oscillator R142). -/
theorem vibratoPeriod_modulated (s : State) :
    vibratoPeriod (modulated s) =
      if Fp.lt Fp.zero s.cfg.vibAmp then
        Fp.mul (limitedPeriod s) (Fp.add Fp.one (Fp.mul (Config.sin (modulated s).run.vibPhase) s.cfg.vibAmp))
      else limitedPeriod s := by
  have hperiod : (modulated s).work.period = limitedPeriod s := by rw [modulated_work, limited_work]
  rw [vibratoPeriod, vibratoOn, modulated_cfg, hperiod]

/-! ## Cutoff at tick 0 (41_sequencer R126) -/

theorem Work.reload_load (c : Cfg) (oscOnly : Bool) : (Work.load c).reload c oscOnly = Work.load c := by
  cases oscOnly <;> rfl

/-- A retrigger before anything has moved the working registers reloads what they hold. -/
theorem retrigger_work_of_loaded {s : State} (h : s.work = Work.load s.cfg) : (retrigger s).work = s.work := by
  unfold retrigger
  split
  · rfl
  · split
    · rw [setRun_work, setWork_work, h, Work.reload_load]
    · rfl

/-- At tick 0 there is no arpeggio: T has reached no time other than 0. -/
theorem arpeggio_of_tick_zero {s : State} (h : s.count.tickCount = 0) : arpeggio s = s := by
  rw [arpeggio_eq, if_neg]
  rintro ⟨hne, hle⟩
  exact hne ((toNat_eq_zero_iff _).1 (Nat.le_zero.1 (h ▸ hle)))

/-- The first slid period of a run is that of the CFG registers (41_sequencer R126). -/
theorem slidPeriod_initRun (s : State) :
    slidPeriod (initRun s) = Fp.mul s.cfg.period (Fp.add s.cfg.periodMult s.cfg.periodMultSlide) := by
  have htick : (retrigger (initRun s)).count.tickCount = 0 := by
    obtain ⟨w, r, h⟩ := retrigger_voice (initRun s)
    rw [h]; rfl
  have hwork : (retrigger (initRun s)).work = Work.load s.cfg := retrigger_work_of_loaded rfl
  rw [slidPeriod, slidMult, arpeggio_of_tick_zero htick, hwork]
  rfl

/-- Settles O60: the first tick's frequency slide starts from the CFG registers, and its cutoff comes before the
waveform is looked at. -/
theorem cutoffAtTickZeroGivesNoOutput : Obligations.CutoffAtTickZeroGivesNoOutput := by
  unfold Obligations.CutoffAtTickZeroGivesNoOutput
  intro s hi hidle hmax hlegal hcutoff hpast
  have hpast' : Fp.lt (initRun s).cfg.periodMax (slidPeriod (initRun s)) = true := by
    rw [slidPeriod_initRun]; exact hpast
  have hstop : periodStop (pitched (initRun s)) = true := (periodStop_iff _).2 ⟨hpast', hcutoff⟩
  have hcount : (periodClamp (pitched (initRun s))).count = Counters.zero := by
    obtain ⟨w, r, h⟩ := limited_voice (initRun s)
    rw [h]; rfl
  have hperiod : (periodClamp (pitched (initRun s))).work.period = s.cfg.periodMax := by
    rw [limited_work]
    exact if_pos hpast'
  refine ⟨initRun s, endRun .freqCutoff (periodClamp (pitched (initRun s))), ?_, ?_, rfl, rfl, ?_, ?_, hperiod⟩
  · rw [exec_cmdStart, startCommand_of_not_busy hidle, if_pos hlegal]
  · rw [exec_decodeWave, tick_of_cutoff _ (s := initRun s) rfl hmax hstop]
  · exact congrArg Counters.outCount hcount
  · exact congrArg Counters.tickCount hcount

/-! ## The frame of a tick (41_sequencer R120) -/

/-- `t` is `s` but for what a tick may write. -/
def TickOnly (s t : State) : Prop :=
  ∃ state evt reason code nan count w r n f pcm norm d,
    t = { s with
      status := { s.status with state := state, evt := evt, endReason := reason, faultCode := code, nanSeen := nan }
      count := count
      work := w
      run := r
      nbuf := n
      fbuf := f
      pcm := pcm
      norm := norm
      drawCount := d }

theorem TickOnly.refl (s : State) : TickOnly s s := ⟨_, _, _, _, _, _, _, _, _, _, _, _, _, rfl⟩

theorem TickOnly.trans {s t u : State} (h1 : TickOnly s t) (h2 : TickOnly t u) : TickOnly s u := by
  obtain ⟨_, _, _, _, _, _, _, _, _, _, _, _, _, rfl⟩ := h1
  obtain ⟨_, _, _, _, _, _, _, _, _, _, _, _, _, rfl⟩ := h2
  exact ⟨_, _, _, _, _, _, _, _, _, _, _, _, _, rfl⟩

theorem SoundOnly.tickOnly {s t : State} (h : SoundOnly s t) : TickOnly s t := by
  obtain ⟨w, r, f, n, d, rfl⟩ := h
  exact ⟨_, _, _, _, _, _, _, _, _, _, _, _, _, rfl⟩

theorem OutputOnly.tickOnly {s t : State} (h : OutputOnly s t) : TickOnly s t := by
  obtain ⟨nan, out, clip, num, sum, pcm, norm, rfl⟩ := h
  exact ⟨_, _, _, _, _, _, _, _, _, _, _, _, _, rfl⟩

theorem endRun_tickOnly (reason : EndReason) (s : State) : TickOnly s (endRun reason s) :=
  ⟨_, _, _, _, _, _, _, _, _, _, _, _, _, rfl⟩

theorem raiseFault_tickOnly (code : FaultCode) (s : State) : TickOnly s (raiseFault code s) :=
  ⟨_, _, _, _, _, _, _, _, _, _, _, _, _, rfl⟩

theorem countTick_tickOnly (s : State) : TickOnly s (countTick s) :=
  ⟨_, _, _, _, _, _, _, _, _, _, _, _, _, rfl⟩

/-- Up to its decimation a tick has changed the sound alone. -/
theorem subSamples_primed_sound {sh : Shape} {s u : State} {iper ishift : Nat} {env acc : F64}
    (hs : subSamples sh iper env ishift 8 (primed s, Fp.zero) = some (u, acc)) : SoundOnly s u :=
  (primed_voice s).sound.trans (subSamples_frame hs)

theorem TickCase.tickOnly {sh : Shape} {s t : State} (h : TickCase sh s t) : TickOnly s t := by
  cases h with
  | idle _ ht => exact ht ▸ .refl s
  | cap _ _ ht => exact ht ▸ endRun_tickOnly _ s
  | cutoff _ _ _ ht => exact ht ▸ (limited_voice s).sound.tickOnly.trans (endRun_tickOnly _ _)
  | envEnd _ _ _ _ ht => exact ht ▸ (enveloped_voice s).sound.tickOnly.trans (endRun_tickOnly _ _)
  | raised code _ _ _ ht => exact ht ▸ raiseFault_tickOnly code s
  | completed iper ishift u v acc _ _ _ _ _ _ hs hv ht =>
    have hdecimated := (subSamples_primed_sound hs).tickOnly.trans (decimate_outputOnly hv).tickOnly
    exact ht ▸ hdecimated.trans (countTick_tickOnly v)

/-- The output memories are as before, or sample OUT_COUNT was stored and counted (46_output R206). -/
def MemoryKeptOrStored (s t : State) : Prop :=
  (t.pcm = s.pcm ∧ t.norm = s.norm) ∨
    (t.count.outCount = s.count.outCount + 1 ∧
      ∃ q w, t.pcm = storedSample s.cfg s.count.outCount q s.pcm ∧ t.norm = cellWrite s.count.outCount w s.norm)

theorem VoiceOnly.memory {s t : State} (h : VoiceOnly s t) : t.pcm = s.pcm ∧ t.norm = s.norm := by
  obtain ⟨w, r, rfl⟩ := h
  exact ⟨rfl, rfl⟩

theorem decimate_memory {acc : F64} {u v : State} (h : decimate acc u = some v) : MemoryKeptOrStored u v := by
  rcases decimate_cases h with ⟨-, rfl⟩ | ⟨-, -, rfl⟩
  · exact .inl ⟨rfl, rfl⟩
  · exact .inr ⟨rfl, _, _, rfl, rfl⟩

theorem TickCase.memory {sh : Shape} {s t : State} (h : TickCase sh s t) : MemoryKeptOrStored s t := by
  cases h with
  | idle _ ht => exact .inl (ht ▸ ⟨rfl, rfl⟩)
  | cap _ _ ht => exact .inl (ht ▸ ⟨rfl, rfl⟩)
  | cutoff _ _ _ ht => exact .inl (ht ▸ (limited_voice s).memory)
  | envEnd _ _ _ _ ht => exact .inl (ht ▸ (enveloped_voice s).memory)
  | raised code _ _ _ ht => exact .inl (ht ▸ ⟨rfl, rfl⟩)
  | completed iper ishift u v acc _ _ _ _ _ _ hs hv ht =>
    obtain ⟨w, r, f, n, d, rfl⟩ := subSamples_primed_sound hs
    have hstored := decimate_memory hv
    exact ht ▸ hstored

/-- Settles O35: the registers by `TickOnly`; a tick that changes a memory has stored sample OUT_COUNT and counted
it. -/
theorem tickLeavesTheRestUnchanged : Obligations.TickLeavesTheRestUnchanged := by
  unfold Obligations.TickLeavesTheRestUnchanged
  intro s t w hexec
  rw [exec_decodeWave] at hexec
  have hcase := tick_cases hexec
  have hmem := hcase.memory
  obtain ⟨_, _, _, _, _, _, _, _, _, _, _, _, _, rfl⟩ := hcase.tickOnly
  refine ⟨rfl, rfl, rfl, rfl, rfl, rfl, rfl, rfl, rfl, rfl, rfl, rfl, ?_⟩
  rcases hmem with ⟨hpcm, hnorm⟩ | ⟨hcounted, q, x, hpcm, hnorm⟩
  · exact ⟨fun a _ => by rw [readPcm, hpcm]; rfl, fun n _ => by rw [readNorm, hnorm]; rfl, fun _ => ⟨hpcm, hnorm⟩⟩
  · refine ⟨fun a ha => ?_, fun n hn => ?_, fun hle => absurd hle (by omega)⟩
    · rw [readPcm, hpcm, cellRead_storedSample_other q s.pcm ha, readPcm]
    · rw [readNorm, hnorm, cellRead_cellWrite_other hn, readNorm]

/-! ## The normal ends (41_sequencer R130, 60_exceptions R255) -/

/-- Every way a tick of a run can end it normally. -/
inductive NormalEnd (s t : State) : Prop where
  | cap (ht : t = endRun .tickCap s)
  | cutoff (hpast : Fp.lt s.cfg.periodMax (slidPeriod s) = true) (ht : t = endRun .freqCutoff (periodClamp (pitched s)))
  | envEnd (hover : s.cfg.stageLen s.run.envStage < s.run.envElapsed + 1) (hlast : 2 ≤ s.run.envStage)
      (ht : t = endRun .envEnd (enveloped s))

theorem TickCase.normalEnd {sh : Shape} {s t : State} (h : TickCase sh s t) (hb : s.status.state = .busy)
    (hdone : t.status.state = .done) : NormalEnd s t := by
  cases h with
  | idle hidle _ => exact absurd hb hidle
  | cap _ _ ht => exact .cap ht
  | cutoff _ _ hp ht => exact .cutoff ((periodStop_iff s).1 hp).1 ht
  | envEnd _ _ _ he ht =>
    obtain ⟨hover, hlast⟩ := (envStop_iff s).1 he
    exact .envEnd hover hlast ht
  | raised code _ _ _ ht => subst ht; cases hdone
  | completed iper ishift u v acc _ _ _ _ _ _ hs hv ht =>
    obtain ⟨_, _, _, _, _, _, _, rfl⟩ := decimate_outputOnly hv
    obtain ⟨_, _, _, _, _, rfl⟩ := subSamples_primed_sound hs
    subst ht
    exact absurd (hb.symm.trans hdone) nofun

/-- `t` is `s` but for the working registers, the retrigger and vibrato counts and the envelope's place: all that the
steps before the sub-samples write. -/
def ControlOnly (s t : State) : Prop :=
  ∃ w rep vib stage elapsed,
    t = (s.setWork w).setRun
      { s.run with repElapsed := rep, vibPhase := vib, envStage := stage, envElapsed := elapsed }

theorem ControlOnly.of_run {s t : State} {rep stage elapsed : Nat} {vib : F64} (h : VoiceOnly s t)
    (hrun : t.run = { s.run with repElapsed := rep, vibPhase := vib, envStage := stage, envElapsed := elapsed }) :
    ControlOnly s t := by
  obtain ⟨w, r, rfl⟩ := h
  obtain rfl := hrun
  exact ⟨w, rep, vib, stage, elapsed, rfl⟩

/-- The run-state registers after steps 2 to 5. -/
theorem limited_run (s : State) :
    (periodClamp (pitched s)).run = { s.run with repElapsed := (arpeggio (retrigger s)).run.repElapsed } := by
  rw [periodClamp_run, pitched_run, arpeggio_run, ← retrigger_run]

/-- The run-state registers of the tick that ends the envelope. -/
theorem enveloped_run_of_end {s : State} (h : s.cfg.stageLen s.run.envStage < s.run.envElapsed + 1) :
    (enveloped s).run =
      { s.run with
        repElapsed := (arpeggio (retrigger s)).run.repElapsed
        vibPhase := if Fp.lt Fp.zero s.cfg.vibAmp then Fp.add s.run.vibPhase s.cfg.vibSpeed else s.run.vibPhase
        envElapsed := 0, envStage := s.run.envStage + 1 } := by
  have hplace := enveloped_stage s
  rw [if_pos h] at hplace
  rw [enveloped_run, hplace.1, hplace.2, modulated_vibPhase, arpeggio_run]

/-- What a normal end keeps: the output, the counters, the buffers, the sub-samples' and the decimator's registers, and
STATUS but for what end() writes. -/
structure KeepsOutput (s t : State) : Prop where
  pcm : t.pcm = s.pcm
  norm : t.norm = s.norm
  count : t.count = s.count
  nbuf : t.nbuf = s.nbuf
  fbuf : t.fbuf = s.fbuf
  draws : t.drawCount = s.drawCount
  phase : t.run.phase = s.run.phase
  ring : t.run.ipp = s.run.ipp
  sum : t.run.sampleSum = s.run.sampleSum
  summed : t.run.numSummed = s.run.numSummed
  status : t.status = { s.status with endReason := t.status.endReason, state := .done, evt := true }

theorem ControlOnly.endRun_keepsOutput {s u : State} (h : ControlOnly s u) (reason : EndReason) :
    KeepsOutput s (endRun reason u) := by
  obtain ⟨w, rep, vib, stage, elapsed, rfl⟩ := h
  exact ⟨rfl, rfl, rfl, rfl, rfl, rfl, rfl, rfl, rfl, rfl, rfl⟩

theorem NormalEnd.keepsOutput {s t : State} (h : NormalEnd s t) : KeepsOutput s t := by
  cases h with
  | cap ht => exact ht ▸ (ControlOnly.of_run (.refl s) rfl).endRun_keepsOutput _
  | cutoff _ ht => exact ht ▸ (ControlOnly.of_run (limited_voice s) (limited_run s)).endRun_keepsOutput _
  | envEnd _ _ ht => exact ht ▸ (ControlOnly.of_run (enveloped_voice s) (enveloped_run s)).endRun_keepsOutput _

/-- Settles O34: each normal end is end() of a state in which only the steps before the sub-samples have written, and
their writes are known. -/
theorem normalEndKeepsTheOutput : Obligations.NormalEndKeepsTheOutput := by
  unfold Obligations.NormalEndKeepsTheOutput
  intro s t w hbusy hexec hdone
  rw [exec_decodeWave] at hexec
  have hend := (tick_cases hexec).normalEnd hbusy hdone
  have hk := hend.keepsOutput
  refine ⟨hk.pcm, hk.norm, hk.count, hk.nbuf, hk.fbuf, hk.draws, hk.phase, hk.ring, hk.sum, hk.summed, hk.status, ?_⟩
  cases hend with
  | cap ht =>
    subst ht
    exact ⟨.inl rfl, fun _ => ⟨rfl, rfl⟩, nofun, nofun⟩
  | cutoff hpast ht =>
    subst ht
    have hwork := limited_work s
    rw [limitedPeriod, if_pos hpast] at hwork
    exact ⟨.inr (.inl rfl), nofun, fun _ => ⟨hwork, limited_run s⟩, nofun⟩
  | envEnd hover hlast ht =>
    subst ht
    have hrun := enveloped_run_of_end hover
    have hstage : 3 ≤ (enveloped s).run.envStage := by rw [hrun]; exact Nat.succ_le_succ hlast
    exact ⟨.inr (.inr rfl), nofun, nofun, fun _ => ⟨enveloped_work_eq s, hrun, hstage⟩⟩

/-! ## A completed tick (41_sequencer R120) -/

/-- What Decimate leaves of `u` (46_output R201); `emits` says that this tick is the last of an output sample. -/
structure Decimated (emits : Prop) [Decidable emits] (u v : State) : Prop where
  work : v.work = u.work
  run : v.run = { u.run with numSummed := v.run.numSummed, sampleSum := v.run.sampleSum }
  summed : v.run.numSummed = if emits then 0 else u.run.numSummed + 1
  sum : emits → v.run.sampleSum = Fp.zero
  count : v.count =
    { u.count with
      outCount := if emits then u.count.outCount + 1 else u.count.outCount, clipCount := v.count.clipCount }
  status : v.status = { u.status with nanSeen := v.status.nanSeen }
  nanSeen : u.status.nanSeen = true → v.status.nanSeen = true

theorem decimate_decimated {acc : F64} {u v : State} (h : decimate acc u = some v) :
    Decimated (u.cfg.summands ≤ u.run.numSummed + 1) u v := by
  rcases decimate_cases h with ⟨hless, rfl⟩ | ⟨hfull, -, rfl⟩
  · have hnot := Nat.not_le.2 hless
    constructor <;> simp [hnot]
  · rw [emitStores_eq]
    constructor <;> simp +contextual [hfull]

/-- A tick that reaches its sub-samples with a legal shape, and answers a next state, has made all of them, decimated
and counted itself. -/
theorem tick_completed {sh : Shape} {s t : State} (hr : ReachesSubSamples s) (hsh : sh ≠ .illegal)
    (h : tick sh s = .next t) :
    ∃ u acc v, subSamples sh (tickPeriod s) (tickEnv s) (tickShift s) 8 (primed s, Fp.zero) = some (u, acc) ∧
      decimate acc u = some v ∧ t = countTick v := by
  rw [tick, if_pos hr.busy, if_neg (Nat.not_le.2 hr.noCap), front_reaches hr] at h
  obtain ⟨⟨u, acc⟩, hu⟩ := Option.isSome_iff_exists.1
    (subSamples_legal hsh (tickPeriod s) (tickEnv s) (tickShift s) 8 (primed s, Fp.zero))
  simp only [tickBack, hu] at h
  cases hv : decimate acc u with
  | none => rw [hv] at h; cases h
  | some v => rw [hv] at h; exact ⟨u, acc, v, hu, hv, (Host.Outcome.next.inj h).symm⟩

/-- What a completed tick of `s` leaves: the sub-samples, which start from `primed`, have moved W_FLTW and the registers
of the phase, the ring and the filters, and Decimate those of the output. -/
structure Completed (s t : State) : Prop where
  work : ∃ fltw, t.work = { (primed s).work with fltw := fltw }
  run : ∃ phase ipp fltp fltdp fltphp, t.run =
    { (enveloped s).run with
      phase := phase, ipp := ipp, fltp := fltp, fltdp := fltdp, fltphp := fltphp
      numSummed := t.run.numSummed, sampleSum := t.run.sampleSum }
  summed : t.run.numSummed = if s.cfg.summands ≤ s.run.numSummed + 1 then 0 else s.run.numSummed + 1
  sum : s.cfg.summands ≤ s.run.numSummed + 1 → t.run.sampleSum = Fp.zero
  count : t.count =
    { s.count with
      tickCount := s.count.tickCount + 1
      outCount := if s.cfg.summands ≤ s.run.numSummed + 1 then s.count.outCount + 1 else s.count.outCount
      clipCount := t.count.clipCount }
  status : t.status = { s.status with nanSeen := t.status.nanSeen }
  nanSeen : s.status.nanSeen = true → t.status.nanSeen = true

theorem completed_of_tick {sh : Shape} {s t : State} (hr : ReachesSubSamples s) (hsh : sh ≠ .illegal)
    (h : tick sh s = .next t) : Completed s t := by
  obtain ⟨u, acc, v, hs, hv, rfl⟩ := tick_completed hr hsh h
  obtain ⟨hrun, hwork⟩ := subSamples_run hs
  rw [primed_run] at hrun
  have hsummed : u.run.numSummed = s.run.numSummed := by rw [hrun, enveloped_run]
  obtain ⟨hstatus, -, hcount, -, -, hcfg, -⟩ := (subSamples_primed_sound hs).fields
  have hd := decimate_decimated hv
  rw [hcfg, hsummed] at hd
  exact
    { work := ⟨u.work.fltw, hd.work.trans hwork⟩
      run := ⟨u.run.phase, u.run.ipp, u.run.fltp, u.run.fltdp, u.run.fltphp, hd.run.trans (by rw [hrun]; rfl)⟩
      summed := hsummed ▸ hd.summed
      sum := hd.sum
      count := by rw [countTick, setCount_count, hd.count, hcount]
      status := hstatus ▸ hd.status
      nanSeen := hstatus ▸ hd.nanSeen }

theorem intPeriod_tickPeriod {s : State} (h : ReachesSubSamples s) :
    intPeriod (vibratoPeriod (modulated s)) = some (tickPeriod s) := by
  obtain ⟨k, hk⟩ := Option.isSome_iff_exists.1 h.periodFits
  rw [tickPeriod, hk, Option.getD_some]

/-- Settles O36: each register is that of `primed` or of `enveloped`, or the output's. -/
theorem completedTickRegisters : Obligations.CompletedTickRegisters := by
  unfold Obligations.CompletedTickRegisters
  intro s t w hr hw hexec
  rw [exec_decodeWave] at hexec
  have hlegal : shapeOf w ≠ .illegal := fun h => Nat.not_le.2 hw ((shapeOf_illegal w).1 h)
  obtain ⟨⟨fltw, hwork⟩, ⟨phase, ipp, fltp, fltdp, fltphp, hrun⟩, hsummed, hsum, hcount, hstatus, hnan⟩ :=
    completed_of_tick hr hlegal hexec
  rw [primed_work] at hwork
  have hmult : t.work.periodMult = slidMult s := by rw [hwork]
  have hperiod : t.work.period = limitedPeriod s := by rw [hwork]
  have hvib : t.run.vibPhase = (modulated s).run.vibPhase := by rw [hrun, enveloped_run]
  have hstage : t.run.envStage = (enveloped s).run.envStage := by rw [hrun]
  have helapsed : t.run.envElapsed = (enveloped s).run.envElapsed := by rw [hrun]
  refine ⟨hmult, by rw [hmult, hperiod]; rfl, ?_, by rw [hwork], by rw [hwork], by rw [hwork], by rw [hwork],
    by rw [hrun, enveloped_run, arpeggio_run], hvib.trans (modulated_vibPhase s), ?_, hsummed, hsum,
    by rw [hcount], by rw [hcount], by rw [hcount], hstatus, hnan⟩
  · rw [hperiod, hvib, ← vibratoPeriod_modulated, intPeriod_tickPeriod hr]
  · rw [hstage, helapsed]
    exact enveloped_stage s

/-! ## The end of a run (41_sequencer R125) -/

/-- The envelope has as many places as its three stages together (43_envelope R172). -/
theorem envPosition_le {c : Cfg} {stage elapsed : Nat} (hstage : stage ≤ 2) (helapsed : elapsed ≤ c.stageLen stage) :
    envPosition c stage elapsed ≤ c.envLen0.toNat + c.envLen1.toNat + c.envLen2.toNat + 2 := by
  interval_cases stage <;> simp only [envPosition, Cfg.stageLen] at * <;> omega

/-- A run in progress has not passed its bound: neither the cap nor the end of the envelope. -/
theorem StateInv.tickCount_le_runBound {s : State} (h : StateInv s) (hb : s.status.state = .busy) :
    s.count.tickCount ≤ runBound s := by
  have hr := h.running hb
  exact le_min h.ticks (hr.position ▸ envPosition_le hr.stage hr.elapsed)

theorem TickOnly.runBound {s t : State} (h : TickOnly s t) : runBound t = runBound s := by
  obtain ⟨_, _, _, _, _, _, _, _, _, _, _, _, _, rfl⟩ := h
  rfl

/-- A tick of a run counts itself, or it ends the run. -/
theorem TickCase.counts_or_ends {sh : Shape} {s t : State} (h : TickCase sh s t) (hb : s.status.state = .busy) :
    (t.status.state = .busy ∧ t.count.tickCount = s.count.tickCount + 1) ∨
      ((t.status.state = .done ∨ t.status.state = .fault) ∧ t.count.tickCount = s.count.tickCount) := by
  cases h with
  | idle hidle _ => exact absurd hb hidle
  | cap _ _ ht => exact .inr (ht ▸ ⟨.inl rfl, rfl⟩)
  | cutoff _ _ _ ht =>
    obtain ⟨w, r, hu⟩ := limited_voice s
    rw [hu] at ht
    exact .inr (ht ▸ ⟨.inl rfl, rfl⟩)
  | envEnd _ _ _ _ ht =>
    obtain ⟨w, r, hu⟩ := enveloped_voice s
    rw [hu] at ht
    exact .inr (ht ▸ ⟨.inl rfl, rfl⟩)
  | raised code _ _ _ ht => exact .inr (ht ▸ ⟨.inr rfl, rfl⟩)
  | completed iper ishift u v acc _ _ _ _ _ _ hs hv ht =>
    obtain ⟨_, _, _, _, _, _, _, rfl⟩ := decimate_outputOnly hv
    obtain ⟨_, _, _, _, _, rfl⟩ := subSamples_primed_sound hs
    exact .inl (ht ▸ ⟨hb, rfl⟩)

theorem blockTicks_succ {n : Nat} {s t : State} (h : tick (shapeOf s.cfg.waveType) s = .next t) :
    blockTicks (n + 1) s = blockTicks n t := by
  rw [blockTicks, exec_decodeWave, h]

/-- Once a run is over, ticks leave the state. -/
theorem blockTicks_of_not_busy {s : State} (h : s.status.state ≠ .busy) (n : Nat) : blockTicks n s = some s := by
  induction n with
  | zero => rfl
  | succ n ih => rw [blockTicks_succ (tick_of_not_busy _ h), ih]

/-- Settles O59, by induction on the ticks: each counts one towards the bound, which every state of the run keeps to, or
is the last. -/
theorem everyRunEndsWithinItsBound : Obligations.EveryRunEndsWithinItsBound := by
  unfold Obligations.EveryRunEndsWithinItsBound
  intro s n hinv hbusy
  change ∃ t, blockTicks n s = some t ∧ t.count.tickCount ≤ runBound s ∧ (runBound s < s.count.tickCount + n → _)
  induction n generalizing s with
  | zero =>
    have hle := hinv.tickCount_le_runBound hbusy
    exact ⟨s, rfl, hle, fun hlt => absurd hle (Nat.not_le.2 hlt)⟩
  | succ n ih =>
    obtain ⟨s', htick⟩ := tick_answers (shapeOf s.cfg.waveType) (s := s) fun _ hc => hinv.room hc
    have hcase := tick_cases htick
    rw [blockTicks_succ htick]
    rcases hcase.counts_or_ends hbusy with ⟨hbusy', hcount⟩ | ⟨hover, hcount⟩
    · obtain ⟨t, hrun, hle, hends⟩ := ih s' (hcase.keeps_inv hinv) hbusy'
      rw [hcase.tickOnly.runBound] at hle hends
      exact ⟨t, hrun, hle, fun hlt => hends (by omega)⟩
    · have hidle : s'.status.state ≠ .busy := by rcases hover with h | h <;> rw [h] <;> decide
      exact ⟨s', blockTicks_of_not_busy hidle n, hcount ▸ hinv.tickCount_le_runBound hbusy, fun _ => hover⟩

end Sys2Proof.Machine

namespace Sys2Proof.Fp

/-! ## Clamping between two bounds (42_oscillator R144, 44_filters R180, R182) -/

/-- The value is raised to `lo`, and the result cut to `hi`: the one form of the sweeps' clamps. -/
def clampBetween (lo hi x : F64) : F64 :=
  let raised := if lt x lo then lo else x
  if lt hi raised then hi else raised

section Clamp

variable {lo hi x : F64}

theorem isNaN_of_le (h : le lo hi = true) : isNaN lo = false ∧ isNaN hi = false := by
  simp only [le, Bool.and_eq_true, Bool.not_eq_true'] at h
  exact h.1

theorem isNaN_of_lt (h : lt lo hi = true) : isNaN lo = false ∧ isNaN hi = false := by
  simp only [lt, Bool.and_eq_true, Bool.not_eq_true'] at h
  exact h.1

theorem clampBetween_nan (hx : isNaN x = true) : clampBetween lo hi x = x := by
  simp [clampBetween, lt_nan_left lo hx, lt_nan_right hi hx]

/-- One case for each place of a number: below the bounds, above them, or in range. -/
theorem clampBetween_cases (hle : le lo hi = true) (hx : isNaN x = false) :
    (key x < key lo ∧ clampBetween lo hi x = lo) ∨ (key hi < key x ∧ clampBetween lo hi x = hi) ∨
      (key lo ≤ key x ∧ key x ≤ key hi ∧ clampBetween lo hi x = x) := by
  obtain ⟨hlo, hhi⟩ := isNaN_of_le hle
  have hkeys : key lo ≤ key hi := (le_iff_key hlo hhi).1 hle
  simp only [clampBetween]
  by_cases hbelow : lt x lo = true
  · have hnot : ¬ lt hi lo = true := (lt_iff_key hhi hlo).not.2 hkeys.not_gt
    rw [if_pos hbelow, if_neg hnot]
    exact .inl ⟨(lt_iff_key hx hlo).1 hbelow, rfl⟩
  · have hlower := not_lt.1 ((lt_iff_key hx hlo).not.1 hbelow)
    rw [if_neg hbelow]
    by_cases habove : lt hi x = true
    · exact .inr (.inl ⟨(lt_iff_key hhi hx).1 habove, if_pos habove⟩)
    · exact .inr (.inr ⟨hlower, not_lt.1 ((lt_iff_key hhi hx).not.1 habove), if_neg habove⟩)

theorem clampBetween_below (hle : le lo hi = true) (hx : lt x lo = true) : clampBetween lo hi x = lo := by
  obtain ⟨hlo, hhi⟩ := isNaN_of_le hle
  have hkeys := (le_iff_key hlo hhi).1 hle
  have hbelow := (lt_iff_key (isNaN_of_lt hx).1 hlo).1 hx
  rcases clampBetween_cases hle (isNaN_of_lt hx).1 with ⟨-, h⟩ | ⟨habove, -⟩ | ⟨hin, -, -⟩
  · exact h
  · omega
  · omega

theorem clampBetween_above (hle : le lo hi = true) (hx : lt hi x = true) : clampBetween lo hi x = hi := by
  obtain ⟨hlo, hhi⟩ := isNaN_of_le hle
  have hkeys := (le_iff_key hlo hhi).1 hle
  have habove := (lt_iff_key hhi (isNaN_of_lt hx).2).1 hx
  rcases clampBetween_cases hle (isNaN_of_lt hx).2 with ⟨hbelow, -⟩ | ⟨-, h⟩ | ⟨-, hin, -⟩
  · omega
  · exact h
  · omega

theorem clampBetween_inside (hlower : le lo x = true) (hupper : le x hi = true) : clampBetween lo hi x = x := by
  obtain ⟨hlo, hx⟩ := isNaN_of_le hlower
  have hhi := (isNaN_of_le hupper).2
  have hlowerKey := (le_iff_key hlo hx).1 hlower
  have hupperKey := (le_iff_key hx hhi).1 hupper
  rcases clampBetween_cases ((le_iff_key hlo hhi).2 (hlowerKey.trans hupperKey)) hx with
    ⟨hbelow, -⟩ | ⟨habove, -⟩ | ⟨-, -, h⟩
  · omega
  · omega
  · exact h

theorem clampBetween_range (hle : le lo hi = true) (hx : isNaN x = false) :
    le lo (clampBetween lo hi x) = true ∧ le (clampBetween lo hi x) hi = true := by
  obtain ⟨hlo, hhi⟩ := isNaN_of_le hle
  rcases clampBetween_cases hle hx with ⟨-, h⟩ | ⟨-, h⟩ | ⟨hlower, hupper, h⟩ <;> rw [h]
  · exact ⟨(le_iff_key hlo hlo).2 le_rfl, hle⟩
  · exact ⟨hle, (le_iff_key hhi hhi).2 le_rfl⟩
  · exact ⟨(le_iff_key hlo hx).2 hlower, (le_iff_key hx hhi).2 hupper⟩

end Clamp

end Sys2Proof.Fp

namespace Sys2Proof.Machine

theorem clampZeroTo_eq (hi w : F64) : clampZeroTo hi w = Fp.clampBetween Fp.zero hi w := rfl

theorem clampHighpass_eq (w : F64) : clampHighpass w = Fp.clampBetween Fp.tenMicro Fp.tenth w := rfl

/-- Settles O44: the three clamps are `clampBetween` of ordered bounds. -/
theorem sweptRegistersStayInRange : Obligations.SweptRegistersStayInRange := by
  unfold Obligations.SweptRegistersStayInRange
  intro x
  have hduty : Fp.le Fp.zero Fp.half = true := by decide
  have hlow : Fp.le Fp.zero Fp.tenth = true := by decide
  have hhigh : Fp.le Fp.tenMicro Fp.tenth = true := by decide
  simp only [clampZeroTo_eq, clampHighpass_eq]
  refine ⟨fun hx => ?_, fun hx => ?_, Fp.clampBetween_below hhigh, Fp.clampBetween_above hduty, fun hx => ?_,
    Fp.clampBetween_inside, Fp.clampBetween_inside, Fp.clampBetween_inside, fun hx => ?_⟩
  · exact ⟨Fp.clampBetween_nan hx, Fp.clampBetween_nan hx, Fp.clampBetween_nan hx⟩
  · exact ⟨Fp.clampBetween_below hduty hx, Fp.clampBetween_below hlow hx⟩
  · exact ⟨Fp.clampBetween_above hlow hx, Fp.clampBetween_above hhigh hx⟩
  · exact ⟨Fp.clampBetween_range hduty hx, Fp.clampBetween_range hlow hx, Fp.clampBetween_range hhigh hx⟩

/-! ## Draws (42_oscillator R157) -/

/-- Settles O52: `draw` is checked against the range, and a table is filled in index order. -/
theorem drawsLieInTheNoiseRange : Obligations.DrawsLieInTheNoiseRange := by
  unfold Obligations.DrawsLieInTheNoiseRange
  intro n
  have hrange := inNoiseRange_draw n
  rw [inNoiseRange, Bool.and_eq_true] at hrange
  exact ⟨hrange, fun i hi => drawTable_getD hi Fp.zero⟩

/-! ## The vibrato and the integer period (42_oscillator R142, R143) -/

theorem intPeriod_of_floor_fin {rf : F64} {k : Int} (h : Fp.floor rf = .fin k) :
    intPeriod rf = if 4294967295 < k then none else if k < 8 then some 8 else some k.toNat := by
  rw [intPeriod, h]; rfl

theorem vibratoAdvance_of_on {s : State} (h : Fp.lt Fp.zero s.cfg.vibAmp = true) :
    vibratoAdvance s = { s with run := { s.run with vibPhase := Fp.add s.run.vibPhase s.cfg.vibSpeed } } := if_pos h

theorem vibratoAdvance_of_off {s : State} (h : Fp.lt Fp.zero s.cfg.vibAmp = false) : vibratoAdvance s = s :=
  if_neg (Bool.eq_false_iff.1 h)

theorem vibratoPeriod_of_on {s : State} (h : Fp.lt Fp.zero s.cfg.vibAmp = true) :
    vibratoPeriod s = Fp.mul s.work.period (Fp.add Fp.one (Fp.mul (Config.sin s.run.vibPhase) s.cfg.vibAmp)) := if_pos h

theorem vibratoPeriod_of_off {s : State} (h : Fp.lt Fp.zero s.cfg.vibAmp = false) :
    vibratoPeriod s = s.work.period := if_neg (Bool.eq_false_iff.1 h)

/-- Settles O39: IntPeriod by what the floor gives, and the vibrato by whether it is on. -/
theorem intPeriodIsBoundedOrFaults : Obligations.IntPeriodIsBoundedOrFaults := by
  unfold Obligations.IntPeriodIsBoundedOrFaults
  intro rf
  refine ⟨fun hnan => ?_, fun hfloor => ?_, fun hfloor => ?_, fun k => intPeriod_of_floor_fin,
    fun n => intPeriod_bounds, fun s => ⟨fun hon => ?_, fun hoff => ?_⟩⟩
  · rw [intPeriod, (Fp.floor_eq_nan rf).2 hnan]
  · rw [intPeriod, hfloor]
  · rw [intPeriod, hfloor]
  · rw [vibratoAdvance_of_on hon]
    exact ⟨rfl, vibratoPeriod_of_on hon⟩
  · rw [vibratoAdvance_of_off hoff]
    exact ⟨rfl, vibratoPeriod_of_off hoff⟩

/-! ## The illegal codes (42_oscillator R151) -/

/-- Settles O30: the first sub-sample of an illegal shape has no value. -/
theorem waveIllegalRaisesBadWave : Obligations.WaveIllegalRaisesBadWave := by
  unfold Obligations.WaveIllegalRaisesBadWave
  intro s w hr
  have hexec : exec (.waveIllegal w) s = tick .illegal s := rfl
  rw [hexec, tick_illegal hr, raiseFault_eq]

/-! ## One sub-sample (42_oscillator R150, 44_filters R180 to R183, 45_flanger R191, 46_output R200) -/

theorem SoundOnly.cfg {s t : State} (h : SoundOnly s t) : t.cfg = s.cfg := by
  obtain ⟨_, _, _, _, _, rfl⟩ := h
  rfl

theorem VoiceOnly.buffers {s t : State} (h : VoiceOnly s t) :
    t.nbuf = s.nbuf ∧ t.fbuf = s.fbuf ∧ t.drawCount = s.drawCount := by
  obtain ⟨_, _, rfl⟩ := h
  exact ⟨rfl, rfl, rfl⟩

theorem phaseAdvance_cfg (sh : Shape) (iper : Nat) (s : State) : (phaseAdvance sh iper s).cfg = s.cfg :=
  (phaseAdvance_sound sh iper s).cfg

/-- FLTDP after the filters, with the low-pass on or off (44_filters R181). -/
theorem filtered_fltdp (x : F64) (s : State) :
    (filtered x s).run.fltdp =
      if s.cfg.lpfEn then
        Fp.sub (Fp.add s.run.fltdp (Fp.mul (Fp.sub x s.run.fltp) (filtered x s).work.fltw))
          (Fp.mul (Fp.add s.run.fltdp (Fp.mul (Fp.sub x s.run.fltp) (filtered x s).work.fltw)) s.cfg.fltdmp)
      else Fp.zero := by
  cases h : s.cfg.lpfEn with
  | true => rw [if_pos rfl, filtered_fltw, filtered_fltdp_on x h]
  | false => exact filtered_fltdp_off x h

theorem flangerWrite_fbuf (x : F64) (s : State) : (flangerWrite x s).fbuf = ringWrite x s := rfl

/-- A sub-sample answers where its waveform has a value. -/
theorem exists_subSample {sh : Shape} {iper : Nat} {s : State} {x : F64}
    (h : waveform sh iper (phaseAdvance sh iper s) = some x) (env acc : F64) (shift : Nat) :
    ∃ t sum, subSample sh iper env shift (s, acc) = some (t, sum) := by
  rw [subSample, h]
  exact ⟨_, _, rfl⟩

/-- Settles O42: the phase moves on, the filters run on its value, and the ring takes the result. -/
theorem subSampleFollowsItsRules : Obligations.SubSampleFollowsItsRules := by
  unfold Obligations.SubSampleFollowsItsRules
  intro sh iper shift env acc x s hipp hshift hx
  obtain ⟨t, sum, hsub⟩ := exists_subSample hx env acc shift
  obtain ⟨x', hx', rfl, rfl⟩ := subSample_pair hsub
  obtain rfl : x = x' := Option.some.inj (hx.symm.trans hx')
  have hrun := phaseAdvance_run sh iper s
  obtain ⟨hwork, hfbuf⟩ := phaseAdvance_rest sh iper s
  have hcfg := phaseAdvance_cfg sh iper s
  have hfltw := filtered_fltw x (phaseAdvance sh iper s)
  have hfltdp := filtered_fltdp x (phaseAdvance sh iper s)
  have hfltp := filtered_fltp x (phaseAdvance sh iper s)
  have hfltphp := filtered_fltphp x (phaseAdvance sh iper s)
  have hring : (filtered x (phaseAdvance sh iper s)).fbuf = s.fbuf := by
    rw [(filtered_voice x _).buffers.2.1, hfbuf]
  have hindex : (filtered x (phaseAdvance sh iper s)).run.ipp = s.run.ipp := by rw [filtered_run, hrun]
  simp only [hrun, hwork, hcfg] at hfltw hfltdp hfltp hfltphp
  refine ⟨_, _, hsub, ?_, hfltdp, hfltp, hfltphp, ?_, subSample_run hsub, fun k hk => ?_, subSample_noise hsub⟩
  · rw [(flangerWrite_rest _ _).1, filtered_work, hwork, hfltw]
  · rw [flangerOut_eq _ hshift (by rwa [hindex]), hring, hindex]
    rfl
  · rw [flangerWrite_fbuf, ringWrite_getD _ (by rwa [hindex]) hk, hring, hindex]
    rfl

/-! ## The eight sub-samples of a tick (41_sequencer R120, step 13) -/

section SubSamples

variable {sh : Shape} {iper ishift n : Nat} {env a b : F64} {s t : State}

/-- The first of several sub-samples, and the others. -/
theorem subSamples_succ (h : subSamples sh iper env ishift (n + 1) (s, a) = some (t, b)) :
    ∃ s' a', subSample sh iper env ishift (s, a) = some (s', a') ∧
      subSamples sh iper env ishift n (s', a') = some (t, b) := by
  rw [subSamples] at h
  cases hs : subSample sh iper env ishift (s, a) with
  | none => rw [hs] at h; cases h
  | some p => rw [hs] at h; exact ⟨p.1, p.2, rfl, h⟩

/-- The last of several sub-samples starts from a state in which only the sound has changed. -/
theorem subSamples_last (h : subSamples sh iper env ishift (n + 1) (s, a) = some (t, b)) :
    ∃ s' a', SoundOnly s s' ∧ subSample sh iper env ishift (s', a') = some (t, b) := by
  induction n generalizing s a with
  | zero =>
    obtain ⟨s', a', hs, hrest⟩ := subSamples_succ h
    exact ⟨s, a, .refl s, hs.trans hrest⟩
  | succ n ih =>
    obtain ⟨s', a', hs, hrest⟩ := subSamples_succ h
    obtain ⟨s'', a'', hsound, hlast⟩ := ih hrest
    exact ⟨s'', a'', (subSample_sound hs).trans hsound, hlast⟩

/-- The waveform reads the phase, the duty and the noise table (42_oscillator R151). -/
theorem waveform_congr (hphase : t.run.phase = s.run.phase) (hduty : t.work.duty = s.work.duty)
    (hnbuf : t.nbuf = s.nbuf) : waveform sh iper t = waveform sh iper s := by
  cases sh <;> simp only [waveform, hphase, hduty, hnbuf]

/-- A sub-sample leaves what its waveform reads as its phase advance has made it. -/
theorem waveform_subSample (h : subSample sh iper env ishift (s, a) = some (t, b)) :
    waveform sh iper t = waveform sh iper (phaseAdvance sh iper s) := by
  obtain ⟨x, -, rfl, -⟩ := subSample_pair h
  apply waveform_congr
  · rw [flangerWrite_run, filtered_run]
  · rw [(flangerWrite_rest _ _).1, filtered_work]
  · rw [(flangerWrite_rest _ _).2.1, (filtered_voice x _).buffers.1]

/-- With the low-pass off, FLTP is the waveform's value and the velocity +0.0 (44_filters R181). -/
theorem subSample_fltp_of_off (h : subSample sh iper env ishift (s, a) = some (t, b)) (hoff : s.cfg.lpfEn = false)
    {x : F64} (hx : waveform sh iper t = some x) : t.run.fltp = Fp.add x Fp.zero := by
  rw [waveform_subSample h] at hx
  obtain ⟨x', hx', ht, -⟩ := subSample_pair h
  obtain rfl : x = x' := Option.some.inj (hx.symm.trans hx')
  have hoff' : (phaseAdvance sh iper s).cfg.lpfEn = false := by rw [phaseAdvance_cfg, hoff]
  have hfltp : t.run.fltp = (filtered x (phaseAdvance sh iper s)).run.fltp := by rw [ht, flangerWrite_run]
  rw [hfltp, filtered_fltp, filtered_fltdp_off x hoff', hoff', if_neg Bool.false_ne_true]

/-- Sub-samples of another shape, or of a phase that does not wrap, leave the noise table (42_oscillator R150). -/
theorem subSamples_keep_table (h : subSamples sh iper env ishift n (s, a) = some (t, b))
    (hkeep : sh ≠ .noise ∨ s.run.phase + n < iper) : t.nbuf = s.nbuf ∧ t.drawCount = s.drawCount := by
  induction n generalizing s a with
  | zero => cases h; exact ⟨rfl, rfl⟩
  | succ n ih =>
    obtain ⟨s', a', hs, hrest⟩ := subSamples_succ h
    have htable := subSample_noise hs
    rw [if_neg (by rintro ⟨hnoise, hwrap⟩; exact hkeep.elim (· hnoise) (by omega))] at htable
    have hnext : s'.run.phase = (s.run.phase + 1) % iper := by rw [subSample_run hs]
    have hkeep' : sh ≠ .noise ∨ s'.run.phase + n < iper :=
      hkeep.imp_right fun hlt => by rw [hnext, Nat.mod_eq_of_lt (by omega)]; omega
    rw [← htable.1, ← htable.2]
    exact ih hrest hkeep'

/-- Sub-samples of NOISE whose phase wraps, no more of them than a period has, refill the table once
(42_oscillator R150). -/
theorem subSamples_refill_table (h : subSamples .noise iper env ishift n (s, a) = some (t, b))
    (hphase : s.run.phase < iper) (hwrap : iper ≤ s.run.phase + n) (hfew : n ≤ iper) :
    t.nbuf = drawTable s.drawCount ∧ t.drawCount = s.drawCount + 32 := by
  induction n generalizing s a with
  | zero => omega
  | succ n ih =>
    obtain ⟨s', a', hs, hrest⟩ := subSamples_succ h
    have htable := subSample_noise hs
    have hnext : s'.run.phase = (s.run.phase + 1) % iper := by rw [subSample_run hs]
    by_cases hnow : iper ≤ s.run.phase + 1
    · rw [if_pos ⟨rfl, hnow⟩] at htable
      rw [show s.run.phase + 1 = iper by omega, Nat.mod_self] at hnext
      rw [← htable.1, ← htable.2]
      exact subSamples_keep_table hrest (.inr (by omega))
    · rw [if_neg (fun hand => hnow hand.2)] at htable
      rw [Nat.mod_eq_of_lt (by omega)] at hnext
      rw [← htable.2]
      exact ih hrest (by omega) (by omega) (by omega)

end SubSamples

/-! ## The completed tick of each legal shape (42_oscillator R150, R153 to R156) -/

/-- Steps 2 to 12 leave the phase and the ring index. -/
theorem primed_phase (s : State) : (primed s).run.phase = s.run.phase ∧ (primed s).run.ipp = s.run.ipp := by
  rw [primed_run, enveloped_run]
  exact ⟨rfl, rfl⟩

/-- IPER is 8 at least, so a tick's eight sub-samples are no more than a period has. -/
theorem eight_le_tickPeriod {s : State} (hr : ReachesSubSamples s) : 8 ≤ tickPeriod s :=
  (intPeriod_bounds (intPeriod_tickPeriod hr)).1

/-- What a completed tick of `s` leaves of the oscillator: `u` and `acc` are what its sub-samples come to, `v` what
Decimate makes of them. -/
structure WaveTick (sh : Shape) (s u : State) (acc : F64) (v : State) : Prop where
  tick : tick sh s = .next (countTick v)
  subSamples : subSamples sh (tickPeriod s) (tickEnv s) (tickShift s) 8 (primed s, Fp.zero) = some (u, acc)
  decimate : decimate acc u = some v
  phase : v.run.phase = (s.run.phase + 8) % tickPeriod s
  ring : v.run.ipp = (s.run.ipp + 8) % 1024
  kept : sh ≠ .noise ∨ s.run.phase + 8 < tickPeriod s → v.nbuf = s.nbuf ∧ v.drawCount = s.drawCount
  refilled : sh = .noise → s.run.phase < tickPeriod s → tickPeriod s ≤ s.run.phase + 8 →
    v.nbuf = drawTable s.drawCount ∧ v.drawCount = s.drawCount + 32
  unfiltered : ∀ {x}, waveform sh (tickPeriod s) v = some x → s.cfg.lpfEn = false → v.run.fltp = Fp.add x Fp.zero

theorem exists_waveTick {sh : Shape} {s : State} (hr : ReachesSubSamples s) (hsh : sh ≠ .illegal)
    (hroom : s.count.outCount < s.outDepth) : ∃ u acc v, WaveTick sh s u acc v := by
  obtain ⟨u, acc, v, hsub, hdec, htick⟩ := tick_completes hr hsh hroom
  obtain ⟨hphase, hring⟩ := subSamples_phase hsub
  obtain ⟨hphase₀, hring₀⟩ := primed_phase s
  obtain ⟨hnbuf₀, -, hdraws₀⟩ := (primed_voice s).buffers
  have hkeep := subSamples_keep_table hsub
  have hunfiltered : ∀ {x}, waveform sh (tickPeriod s) u = some x → s.cfg.lpfEn = false →
      u.run.fltp = Fp.add x Fp.zero := fun {x} hx hoff => by
    obtain ⟨s', a', hsound, hlast⟩ := subSamples_last hsub
    have hcfg : s'.cfg = s.cfg := ((primed_voice s).sound.trans hsound).cfg
    exact subSample_fltp_of_off hlast (by rw [hcfg, hoff]) hx
  have hrefill : sh = .noise → s.run.phase < tickPeriod s → tickPeriod s ≤ s.run.phase + 8 →
      u.nbuf = drawTable s.drawCount ∧ u.drawCount = s.drawCount + 32 := by
    rintro rfl hlt hwrap
    rw [← hdraws₀]
    rw [← hphase₀] at hlt hwrap
    exact subSamples_refill_table hsub hlt hwrap (eight_le_tickPeriod hr)
  rw [hphase₀] at hphase hkeep
  rw [hring₀] at hring
  rw [hnbuf₀, hdraws₀] at hkeep
  obtain ⟨_, _, _, _, _, _, _, rfl⟩ := decimate_outputOnly hdec
  exact ⟨u, acc, _, htick, hsub, hdec, hphase, hring, hkeep, hrefill, fun hx =>
    hunfiltered ((waveform_congr rfl rfl rfl).symm.trans hx)⟩

/-- Both values of the Square stay under the addition of +0.0 (42_oscillator R153). -/
theorem square_add_zero (fp duty : F64) : Fp.add (square fp duty) Fp.zero = square fp duty := by
  have hhalf : Fp.add Fp.half Fp.zero = Fp.half := by decide +kernel
  have hnegHalf : Fp.add Fp.negHalf Fp.zero = Fp.negHalf := by decide +kernel
  unfold square
  split
  · exact hhalf
  · exact hnegHalf

/-- Settles O26: a completed tick of Square, whose values an addition of +0.0 leaves. -/
theorem waveSquareTickCompletes : Obligations.WaveSquareTickCompletes := by
  unfold Obligations.WaveSquareTickCompletes
  intro s hr hroom
  obtain ⟨u, acc, v, h⟩ := exists_waveTick (sh := .square) hr nofun hroom
  obtain ⟨hnbuf, hdraws⟩ := h.kept (.inl nofun)
  exact ⟨u, acc, v, h.tick, h.subSamples, h.decimate, h.phase, h.ring, hnbuf, hdraws,
    fun hoff => (h.unfiltered rfl hoff).trans (square_add_zero _ _)⟩

/-- Settles O27: a completed tick of Saw. -/
theorem waveSawTickCompletes : Obligations.WaveSawTickCompletes := by
  unfold Obligations.WaveSawTickCompletes
  intro s hr hroom
  obtain ⟨u, acc, v, h⟩ := exists_waveTick (sh := .saw) hr nofun hroom
  obtain ⟨hnbuf, hdraws⟩ := h.kept (.inl nofun)
  exact ⟨u, acc, v, h.tick, h.subSamples, h.decimate, h.phase, h.ring, hnbuf, hdraws, h.unfiltered rfl⟩

/-- Settles O28: a completed tick of Sine. -/
theorem waveSineTickCompletes : Obligations.WaveSineTickCompletes := by
  unfold Obligations.WaveSineTickCompletes
  intro s hr hroom
  obtain ⟨u, acc, v, h⟩ := exists_waveTick (sh := .sine) hr nofun hroom
  obtain ⟨hnbuf, hdraws⟩ := h.kept (.inl nofun)
  exact ⟨u, acc, v, h.tick, h.subSamples, h.decimate, h.phase, h.ring, hnbuf, hdraws, h.unfiltered rfl⟩

/-- Settles O29: a completed tick of Noise, whose eight sub-samples wrap the phase at most once. -/
theorem waveNoiseTickCompletes : Obligations.WaveNoiseTickCompletes := by
  unfold Obligations.WaveNoiseTickCompletes
  intro s hr hroom
  obtain ⟨u, acc, v, h⟩ := exists_waveTick (sh := .noise) hr nofun hroom
  exact ⟨u, acc, v, h.tick, h.subSamples, h.decimate, h.phase, h.ring, fun hlt => h.kept (.inr hlt), h.refilled rfl,
    h.unfiltered rfl⟩

end Sys2Proof.Machine

namespace Sys2Proof.Machine

/-! The three stages of the envelope (43_envelope R171). -/

/-- `envf` of the stage the state is in, as R171 writes it: 1.0 for a zero length, the quotient otherwise. -/
def stageFraction (s : State) : F64 := envFraction (s.cfg.stageLen s.run.envStage) s.run.envElapsed

theorem stageFraction_eq (s : State) :
    stageFraction s =
      if s.cfg.stageLen s.run.envStage = 0 then Fp.one
      else Fp.div (Fp.ofNat s.run.envElapsed) (Fp.ofNat (s.cfg.stageLen s.run.envStage)) := rfl

theorem stageLen_attack (c : Cfg) : c.stageLen 0 = c.envLen0.toNat := rfl

theorem stageLen_sustain (c : Cfg) : c.stageLen 1 = c.envLen1.toNat := rfl

theorem stageLen_decay (c : Cfg) : c.stageLen 2 = c.envLen2.toNat := rfl

theorem envValue_of_attack {s : State} (h : s.run.envStage = 0) : envValue s = stageFraction s := by
  simp only [envValue, stageFraction, h]

theorem envValue_of_sustain {s : State} (h : s.run.envStage = 1) :
    envValue s = Fp.add Fp.one (Fp.mul (Fp.mul (Fp.sub Fp.one (stageFraction s)) Fp.two) s.cfg.punch) := by
  simp only [envValue, stageFraction, h]

theorem envValue_of_decay {s : State} (h : s.run.envStage = 2) :
    envValue s = Fp.sub Fp.one (stageFraction s) := by
  simp only [envValue, stageFraction, h]

/-- Settles O43, stage by stage: each fixes its length register and its formula over the one `envf`. -/
theorem envelopeValueOfEachStage : Obligations.EnvelopeValueOfEachStage := by
  unfold Obligations.EnvelopeValueOfEachStage
  intro s
  simp only [← stageFraction_eq]
  refine ⟨fun hattack => ⟨?_, envValue_of_attack hattack⟩, fun hsustain => ⟨?_, envValue_of_sustain hsustain⟩,
    fun hdecay => ⟨?_, envValue_of_decay hdecay⟩⟩
  · rw [hattack, stageLen_attack]
  · rw [hsustain, stageLen_sustain]
  · rw [hdecay, stageLen_decay]

end Sys2Proof.Machine

namespace Sys2Proof.Machine

/-! The tap distance by the floor of the slid offset (45_flanger R190). -/

theorem flangerShift_of_floor_posInf {x : F64} (h : Fp.floor x = .posInf) : flangerShift x = some 1023 := by
  simp only [flangerShift, h]

theorem flangerShift_of_floor_negInf {x : F64} (h : Fp.floor x = .negInf) : flangerShift x = some 1023 := by
  simp only [flangerShift, h]

theorem flangerShift_of_floor_fin {x : F64} {k : Int} (h : Fp.floor x = .fin k) :
    flangerShift x = some (min k.natAbs 1023) := by
  simp only [flangerShift, h]

/-- Settles O40: a NaN alone has no floor to take a magnitude of, and every other floor gives its magnitude, clamped. -/
theorem flangerShiftIsClamped : Obligations.FlangerShiftIsClamped := by
  unfold Obligations.FlangerShiftIsClamped
  intro x
  exact ⟨flangerShift_eq_none x, flangerShift_of_floor_posInf, flangerShift_of_floor_negInf,
    fun _ => flangerShift_of_floor_fin, fun _ => flangerShift_le⟩

end Sys2Proof.Machine

namespace Sys2Proof.Fp

/-! ## The order of the patterns that are not NaN (00_scope R14) -/

section Order

variable {lo hi x : F64}

theorem not_lt_swap_of_le (h : le lo x = true) : ¬ lt x lo = true := by
  obtain ⟨hlo, hx⟩ := isNaN_of_le h
  rw [lt_iff_key hx hlo, not_lt]
  exact (le_iff_key hlo hx).1 h

theorem not_le_swap_of_lt (h : lt x hi = true) : ¬ le hi x = true := fun hle => not_lt_swap_of_le hle h

theorem le_of_not_lt_number (hlo : isNaN lo = false) (hx : isNaN x = false) (h : ¬ lt x lo = true) :
    le lo x = true := by
  rw [lt_iff_key hx hlo, not_lt] at h
  exact (le_iff_key hlo hx).2 h

theorem lt_of_not_le_number (hhi : isNaN hi = false) (hx : isNaN x = false) (h : ¬ le hi x = true) :
    lt x hi = true := by
  rw [le_iff_key hhi hx, not_le] at h
  exact (lt_iff_key hx hhi).2 h

theorem lt_of_lt_of_le_number (hlt : lt x lo = true) (hle : le lo hi = true) : lt x hi = true := by
  obtain ⟨hx, hlo⟩ := isNaN_of_lt hlt
  have hhi := (isNaN_of_le hle).2
  exact (lt_iff_key hx hhi).2 (((lt_iff_key hx hlo).1 hlt).trans_le ((le_iff_key hlo hhi).1 hle))

end Order

/-! ## Sums and products that are no NaN (00_scope R13) -/

theorem isFinite_of_number {x : F64} (hnan : isNaN x = false) (hinf : isInf x = false) : isFinite x = true := by
  simp only [isNaN, isInf, isFinite, decide_eq_false_iff_not, beq_eq_false_iff_ne, decide_eq_true_eq] at *
  exact (not_lt.1 hnan).lt_of_ne hinf

section FiniteRight

variable {a b : F64} (ha : isNaN a = false) (hb : isFinite b = true)
include ha hb

theorem isNaN_add_of_isFinite_right : isNaN (add a b) = false := by
  cases hinf : isInf a with
  | true =>
    have hadd := add_inf_left hinf (isNaN_of_isFinite hb)
    rw [if_neg (by simp [isInf_of_isFinite hb])] at hadd
    rw [hadd, ha]
  | false =>
    rw [add_of_isFinite (isFinite_of_number ha hinf) hb]
    exact (roundsTo_addFinite a b).notNaN

theorem isNaN_mul_of_isFinite_right (hzero : mag b ≠ 0) : isNaN (mul a b) = false := by
  cases hinf : isInf a with
  | true =>
    have hmul := mul_inf (.inl hinf) ha (isNaN_of_isFinite hb)
    rw [if_neg (by simp [mag_ne_zero_of_isInf hinf, hzero])] at hmul
    exact isNaN_of_isInf hmul.1
  | false => exact (roundsTo_mul (isFinite_of_number ha hinf) hb).notNaN

end FiniteRight

/-! ## Floors between whole bounds (00_scope R15) -/

section Between

variable {lo hi x : F64}

theorem key_of_isInf (h : isInf x = true) : key x = infMag ∨ key x = -(infMag : Int) := by
  rw [key, mag_of_isInf h]
  cases sign x
  · exact .inl rfl
  · exact .inr rfl

theorem neg_infMag_lt_key (h : isFinite x = true) : -(infMag : Int) < key x := by
  simp only [isFinite, decide_eq_true_eq] at h
  unfold key
  split <;> omega

/-- A number from a finite bound on and below another number is no infinity: those are the two ends of the order. -/
theorem isInf_of_between (hfin : isFinite lo = true) (hlower : le lo x = true) (hupper : lt x hi = true) :
    isInf x = false := by
  obtain ⟨hlo, hx⟩ := isNaN_of_le hlower
  have hhi := (isNaN_of_lt hupper).2
  have hlowerKey := (le_iff_key hlo hx).1 hlower
  have hupperKey := (lt_iff_key hx hhi).1 hupper
  have hbelow : key x < infMag := hupperKey.trans_le (key_bounds hhi).1.2
  have habove : -(infMag : Int) < key x := (neg_infMag_lt_key hfin).trans_le hlowerKey
  rw [← Bool.not_eq_true]
  exact fun hinf => (key_of_isInf hinf).elim hbelow.ne habove.ne'

/-- Between two whole numbers the floor is one of the integers from the lower on and below the upper. -/
theorem floor_of_between {m n : Int} (hm : value lo = m * unitsPerOne) (hn : value hi = n * unitsPerOne)
    (hfin : isFinite lo = true) (hlower : le lo x = true) (hupper : lt x hi = true) :
    ∃ k : Int, floor x = .fin k ∧ m ≤ k ∧ k < n := by
  obtain ⟨hlo, hx⟩ := isNaN_of_le hlower
  have hlowerValue := (value_le_iff lo x).2 ((le_iff_key hlo hx).1 hlower)
  have hupperValue := (value_lt_iff x hi).2 ((lt_iff_key hx (isNaN_of_lt hupper).2).1 hupper)
  have hpos : 0 < (unitsPerOne : Int) := Int.natCast_pos.2 unitsPerOne_pos
  refine ⟨_, floor_of_finite hx (isInf_of_between hfin hlower hupper), ?_, ?_⟩
  · rwa [Int.le_ediv_iff_mul_le hpos, ← hm]
  · rwa [Int.ediv_lt_iff_lt_mul hpos, ← hn]

end Between

end Sys2Proof.Fp

namespace Sys2Proof.Machine

/-! ## The quantisers (46_output R207 to R209) -/

/-- `lo` and `hi` are the whole numbers `bottom` and `top + 1`: in between lie just the values whose floor a sample can
hold. -/
structure SampleRange (lo hi : F64) (bottom top : Int) : Prop where
  ordered : Fp.le lo hi = true
  finite : Fp.isFinite lo = true
  lower : Fp.value lo = bottom * Fp.unitsPerOne
  upper : Fp.value hi = (top + 1) * Fp.unitsPerOne

theorem sampleRange8 : SampleRange Fp.zero Fp.c256 0 255 := by constructor <;> decide +kernel

theorem sampleRange16 : SampleRange Fp.negC32768 Fp.c32768 (-32768) 32767 := by constructor <;> decide +kernel

section Quantise

variable {v t hi lo : F64} {mid top bottom : Int}

theorem quantise_nan (hv : Fp.isNaN v = true) :
    quantise v t hi lo mid top bottom = { value := mid, clipped := true, nan := true } := if_pos hv

theorem quantise_above (hv : Fp.isNaN v = false) (h : Fp.le hi t = true) :
    quantise v t hi lo mid top bottom = { value := top, clipped := true, nan := false } := by
  rw [quantise, hv, if_neg Bool.false_ne_true, if_pos h]

theorem quantise_below (hv : Fp.isNaN v = false) (hle : Fp.le lo hi = true) (h : Fp.lt t lo = true) :
    quantise v t hi lo mid top bottom = { value := bottom, clipped := true, nan := false } := by
  rw [quantise, hv, if_neg Bool.false_ne_true, if_neg (Fp.not_le_swap_of_lt (Fp.lt_of_lt_of_le_number h hle)), if_pos h]

theorem quantise_inside {k : Int} (hv : Fp.isNaN v = false) (hlower : Fp.le lo t = true) (hupper : Fp.lt t hi = true)
    (hk : Fp.floor t = .fin k) :
    quantise v t hi lo mid top bottom = { value := k, clipped := false, nan := false } := by
  rw [quantise, hv, if_neg Bool.false_ne_true, if_neg (Fp.not_le_swap_of_lt hupper),
    if_neg (Fp.not_lt_swap_of_le hlower), floorInt, hk]

/-- The floor in between is a sample, and the quantiser gives it unclipped. -/
theorem SampleRange.exists_floor (hr : SampleRange lo hi bottom top) (hv : Fp.isNaN v = false)
    (hlower : Fp.le lo t = true) (hupper : Fp.lt t hi = true) :
    ∃ k : Int, Fp.floor t = .fin k ∧ bottom ≤ k ∧ k ≤ top ∧
      quantise v t hi lo mid top bottom = { value := k, clipped := false, nan := false } := by
  obtain ⟨k, hk, hbottom, htop⟩ := Fp.floor_of_between hr.lower hr.upper hr.finite hlower hupper
  exact ⟨k, hk, hbottom, Int.lt_add_one_iff.1 htop, quantise_inside hv hlower hupper hk⟩

/-- Whatever the value, the quantiser gives a sample, and its NaN mark says whether the value was a NaN. -/
theorem SampleRange.quantise_mem (hr : SampleRange lo hi bottom top) (hmid : bottom ≤ mid ∧ mid ≤ top)
    (ht : Fp.isNaN v = false → Fp.isNaN t = false) :
    let q := quantise v t hi lo mid top bottom
    (bottom ≤ q.value ∧ q.value ≤ top) ∧ q.nan = Fp.isNaN v := by
  have hrange : bottom ≤ top := hmid.1.trans hmid.2
  obtain ⟨hlo, hhi⟩ := Fp.isNaN_of_le hr.ordered
  cases hv : Fp.isNaN v with
  | true => rw [quantise_nan hv]; exact ⟨hmid, rfl⟩
  | false =>
    by_cases habove : Fp.le hi t = true
    · rw [quantise_above hv habove]; exact ⟨⟨hrange, le_rfl⟩, rfl⟩
    by_cases hbelow : Fp.lt t lo = true
    · rw [quantise_below hv hr.ordered hbelow]; exact ⟨⟨le_rfl, hrange⟩, rfl⟩
    obtain ⟨k, -, hbottom, htop, hq⟩ := hr.exists_floor (mid := mid) hv (Fp.le_of_not_lt_number hlo (ht hv) hbelow)
      (Fp.lt_of_not_le_number hhi (ht hv) habove)
    rw [hq]
    exact ⟨⟨hbottom, htop⟩, rfl⟩

end Quantise

theorem isNaN_scaled8 {v : F64} (hv : Fp.isNaN v = false) : Fp.isNaN (Fp.mul (Fp.add v Fp.one) Fp.c128) = false :=
  Fp.isNaN_mul_of_isFinite_right (Fp.isNaN_add_of_isFinite_right hv (by decide)) (by decide) (by decide)

theorem isNaN_scaled16 {v : F64} (hv : Fp.isNaN v = false) : Fp.isNaN (Fp.mul v Fp.c32768) = false :=
  Fp.isNaN_mul_of_isFinite_right hv (by decide) (by decide)

/-- Settles O45: each quantiser is `quantise` over its own `SampleRange`, on a scaled value that is no NaN. -/
theorem quantisersStayInRange : Obligations.QuantisersStayInRange := by
  unfold Obligations.QuantisersStayInRange
  intro v
  refine ⟨fun hv => ⟨quantise_nan hv, quantise_nan hv⟩, fun hv => ⟨?_, ?_⟩⟩
  · exact ⟨isNaN_scaled8 hv, quantise_above hv, quantise_below hv sampleRange8.ordered, sampleRange8.exists_floor hv⟩
  · exact ⟨isNaN_scaled16 hv, quantise_above hv, quantise_below hv sampleRange16.ordered,
      sampleRange16.exists_floor hv⟩

/-! ## An emitted sample (46_output R202, R205, R206) -/

theorem quant8_mem (v : F64) :
    (0 ≤ (quant8 v).value ∧ (quant8 v).value ≤ 255) ∧ (quant8 v).nan = Fp.isNaN v :=
  sampleRange8.quantise_mem (by decide) isNaN_scaled8

theorem quant16_mem (v : F64) :
    (-32768 ≤ (quant16 v).value ∧ (quant16 v).value ≤ 32767) ∧ (quant16 v).nan = Fp.isNaN v :=
  sampleRange16.quantise_mem (by decide) isNaN_scaled16

theorem quantised_nan (c : Cfg) (v : F64) : (quantised c v).nan = Fp.isNaN v := by
  unfold quantised
  split
  · exact (quant8_mem v).2
  · exact (quant16_mem v).2

section Stored

variable {c : Cfg} {n : Nat} {q : Int} {m : List Host.Cell}

theorem cellRead_storedSample_byte (hsize : c.sampleSize = 8#32) :
    cellRead (storedSample c n q m) n = some (BitVec.ofInt 8 q) := by
  rw [storedSample, if_pos hsize, sampleAddr, if_pos hsize, cellRead_cellWrite_same]

theorem cellRead_storedSample_low (hsize : c.sampleSize ≠ 8#32) :
    cellRead (storedSample c n q m) (2 * n) = some ((BitVec.ofInt 16 q).extractLsb' 0 8) := by
  rw [storedSample, if_neg hsize, sampleAddr, if_neg hsize, cellRead_cellWrite_other (Nat.succ_ne_self _).symm,
    cellRead_cellWrite_same]

theorem cellRead_storedSample_high (hsize : c.sampleSize ≠ 8#32) :
    cellRead (storedSample c n q m) (2 * n + 1) = some ((BitVec.ofInt 16 q).extractLsb' 8 8) := by
  rw [storedSample, if_neg hsize, sampleAddr, if_neg hsize, cellRead_cellWrite_same]

end Stored

theorem toNat_ofInt8 {q : Int} (h : 0 ≤ q ∧ q ≤ 255) : (BitVec.ofInt 8 q).toNat = q.toNat := by
  rw [BitVec.toNat_ofInt]
  omega

/-- The two bytes of the pair are the whole two's complement value (20_memory R63). -/
theorem toInt_pair_ofInt16 {q : Int} (h : -32768 ≤ q ∧ q ≤ 32767) :
    ((BitVec.ofInt 16 q).extractLsb' 8 8 ++ (BitVec.ofInt 16 q).extractLsb' 0 8).toInt = q := by
  have hpair : (BitVec.ofInt 16 q).extractLsb' 8 8 ++ (BitVec.ofInt 16 q).extractLsb' 0 8 = BitVec.ofInt 16 q := by
    rw [BitVec.extractLsb'_append_extractLsb'_eq_extractLsb' (by decide), BitVec.extractLsb'_eq_self]
  rw [hpair]
  exact BitVec.toInt_ofInt_eq_self (by decide) h.1 (Int.lt_add_one_iff.2 h.2)

section EmitStores

variable {v : F64} {s : State}

theorem readNorm_emitStores : readNorm (emitStores v s) s.count.outCount = normBits (scale s.cfg v) := by
  rw [emitStores_eq, readNorm, cellRead_cellWrite_same, Option.getD_some]

theorem readPcm_emitStores_byte (hsize : s.cfg.sampleSize = 8#32) :
    (readPcm (emitStores v s) s.count.outCount).toNat = (quant8 (scale s.cfg v)).value.toNat := by
  rw [emitStores_eq, readPcm, cellRead_storedSample_byte hsize, Option.getD_some, quantised, if_pos hsize]
  exact toNat_ofInt8 (quant8_mem _).1

theorem readPcm_emitStores_pair (hsize : s.cfg.sampleSize ≠ 8#32) :
    (readPcm (emitStores v s) (2 * s.count.outCount + 1) ++ readPcm (emitStores v s) (2 * s.count.outCount)).toInt =
      (quant16 (scale s.cfg v)).value := by
  rw [emitStores_eq, readPcm, readPcm, cellRead_storedSample_high hsize, cellRead_storedSample_low hsize,
    Option.getD_some, Option.getD_some, quantised, if_neg hsize]
  exact toInt_pair_ofInt16 (quant16_mem _).1

theorem emitStores_clipCount : (emitStores v s).count.clipCount =
    if (quantised s.cfg (scale s.cfg v)).clipped then s.count.clipCount + 1 else s.count.clipCount := rfl

theorem emitStores_nanSeen : (emitStores v s).status.nanSeen = (s.status.nanSeen || Fp.isNaN (scale s.cfg v)) := by
  rw [emitStores_eq, quantised_nan]

end EmitStores

/-- Settles O46: Emit's answer is its stores, which both memories read back; the size picks the quantiser. -/
theorem emittedSampleReadsBack : Obligations.EmittedSampleReadsBack := by
  unfold Obligations.EmittedSampleReadsBack
  intro v s t h
  obtain ⟨-, rfl⟩ := emit_cases h
  refine ⟨readNorm_emitStores, fun h8 => ⟨readPcm_emitStores_byte h8, ?_⟩, fun h16 => ?_, rfl, emitStores_nanSeen, rfl,
    rfl, rfl⟩
  · rw [emitStores_clipCount, quantised, if_pos h8, scale]
  · have hsize : s.cfg.sampleSize ≠ 8#32 := by rw [h16]; decide
    refine ⟨readPcm_emitStores_pair hsize, ?_⟩
    rw [emitStores_clipCount, quantised, if_neg hsize, scale]

/-! ## Decimation (46_output R201) -/

theorem decimate_of_summing (acc : F64) {s : State} (h : s.run.numSummed + 1 < s.cfg.summands) :
    decimate acc s =
      some { s with run := { s.run with sampleSum := decimateSum acc s, numSummed := s.run.numSummed + 1 } } :=
  if_neg (Nat.not_le.2 h)

theorem decimate_of_full (acc : F64) {s : State} (h : s.cfg.summands ≤ s.run.numSummed + 1) :
    decimate acc s = emit (Fp.div (decimateSum acc s) (Fp.ofNat s.cfg.summands))
      { s with run := { s.run with sampleSum := Fp.zero, numSummed := 0 } } :=
  if_pos h

/-- Settles O47: the two branches of Decimate, and SUMMANDS as 10_state R38 defines it. -/
theorem decimationEmitsEverySummandsTicks : Obligations.DecimationEmitsEverySummandsTicks := by
  unfold Obligations.DecimationEmitsEverySummandsTicks
  intro acc s
  exact ⟨decimate_of_summing acc, decimate_of_full acc, rfl⟩

end Sys2Proof.Machine

namespace Sys2Proof.Machine

/-! ## CLEAR_ERR (47_host_driver R226) -/

/-- The mask of CLEAR_ERR has a 1 at every W1C bit, so its write clears the five fields whatever they held. -/
theorem writeOneToClear_w1cMask (v : Status) :
    v.writeOneToClear 0x00000000000F0004#64 =
      { v with evt := false, errBusy := false, errCmd := false, errCfg := false, errAddr := false } := by
  have hones : ∀ i ∈ [2, 16, 17, 18, 19], (0x00000000000F0004#64).getLsbD i = true := by decide
  simp only [Status.writeOneToClear, hones, List.mem_cons, true_or, or_true, Bool.not_true, Bool.and_false]

/-- Settles O54: CLEAR_ERR is the W1C write of the whole mask to STATUS. -/
theorem clearErrClearsFiveBits : Obligations.ClearErrClearsFiveBits := by
  unfold Obligations.ClearErrClearsFiveBits
  intro s
  refine ⟨rfl, ?_⟩
  calc exec clearErr s = .next (s.setStatus (s.status.writeOneToClear 0x00000000000F0004#64)) :=
        exec_regWr_addrOfReg .status _ s
    _ = _ := by rw [writeOneToClear_w1cMask, State.setStatus]

/-! ## LOAD_RAW (47_host_driver R223)

A configuration is what its registers read as, so it is loaded once every register reads as the source's does: each
register takes its reading when its write comes, and the other writes leave it. -/

theorem readU32_injective {v w : BitVec 32} (h : readU32 v = readU32 w) : v = w := by
  rw [← storeU32_readU32 v, h, storeU32_readU32]

theorem flagsBits_eq_iff {a b : Cfg} : flagsBits a = flagsBits b ↔ a.cutoffEn = b.cutoffEn ∧ a.lpfEn = b.lpfEn := by
  refine ⟨fun h => ?_, fun ⟨hcutoff, hlpf⟩ => by rw [flagsBits, flagsBits, hcutoff, hlpf]⟩
  obtain ⟨hcutoff, hlpf⟩ := flagsBits_bits a
  rw [← hcutoff, ← hlpf, h]
  exact flagsBits_bits b

/-- The 28 readings hold everything the CFG registers hold (10_state R29). -/
theorem Cfg.eq_of_readCfg {a b : Cfg} (h : ∀ r, readCfg a r = readCfg b r) : a = b := by
  obtain ⟨hcutoff, hlpf⟩ := flagsBits_eq_iff.1 (h .flags)
  cases a
  cases b
  rw [Cfg.mk.injEq]
  exact
    ⟨readU32_injective (h .waveType), h .period, h .periodMax, h .periodMult, h .periodMultSlide, h .duty,
     h .dutySlide, h .arpMult, readU32_injective (h .arpTime), hcutoff, hlpf, h .fltw, h .fltwD, h .fltdmp,
     h .flthp, h .flthpD, h .vibSpeed, h .vibAmp, readU32_injective (h .envLen0), readU32_injective (h .envLen1),
     readU32_injective (h .envLen2), h .punch, h .flangerOffset, h .flangerSlide, readU32_injective (h .repeatTime),
     h .gain, h .masterVol, readU32_injective (h .sampleRate), readU32_injective (h .sampleSize)⟩

/-- A write of a register's own reading is exact in every format, since a reading has nothing outside its format. -/
theorem readCfg_storeCfg_readCfg (c src : Cfg) (r : CfgReg) :
    readCfg (storeCfg c r (readCfg src r)) r = readCfg src r := by
  have hu32 (v : BitVec 32) : readU32 (storeU32 (readU32 v)) = readU32 v := by rw [storeU32_readU32]
  cases r with
  | flags => exact flagsBits_eq_iff.2 (flagsBits_bits src)
  | waveType | arpTime | envLen0 | envLen1 | envLen2 | repeatTime | sampleRate | sampleSize => exact hu32 _
  | _ => rfl

/-- The CFG registers after the readings of `src` are written to the registers of a list, one after another. -/
def copyCfg (src : Cfg) : List CfgReg → Cfg → Cfg
  | [], c => c
  | r :: rs, c => copyCfg src rs (storeCfg c r (readCfg src r))

theorem execAll_cons_of_next {i : Instr} {s t : State} (h : exec i s = .next t) (is : List Instr) :
    execAll (i :: is) s = execAll is t := by
  rw [execAll, h]

/-- Outside BUSY every write of a list of CFG writes is accepted, and none of them makes the state BUSY. -/
theorem execAll_cfgWrites (src : Cfg) (rs : List CfgReg) {s : State} (hidle : s.status.state ≠ .busy) :
    execAll (rs.map fun r => .regWr (addrOfReg (.cfg r)) (readCfg src r)) s =
      some (s.setCfg (copyCfg src rs s.cfg)) := by
  induction rs generalizing s with
  | nil => rfl
  | cons r rs ih =>
    have hwrite : exec (.regWr (addrOfReg (.cfg r)) (readCfg src r)) s =
        .next (s.setCfg (storeCfg s.cfg r (readCfg src r))) := by
      rw [exec_regWr_addrOfReg, writeReg, guardedWrite_of_not_busy hidle]
    calc execAll ((r :: rs).map fun r => .regWr (addrOfReg (.cfg r)) (readCfg src r)) s
        = execAll (rs.map fun r => .regWr (addrOfReg (.cfg r)) (readCfg src r))
            (s.setCfg (storeCfg s.cfg r (readCfg src r))) := execAll_cons_of_next hwrite _
      _ = some (s.setCfg (copyCfg src (r :: rs) s.cfg)) := ih hidle

/-- A register reads as the source's does if its write is still to come or was the last to change it. -/
theorem readCfg_copyCfg {src c : Cfg} {rs : List CfgReg} {q : CfgReg} (h : q ∈ rs ∨ readCfg c q = readCfg src q) :
    readCfg (copyCfg src rs c) q = readCfg src q := by
  induction rs generalizing c with
  | nil => exact h.resolve_left List.not_mem_nil
  | cons r rs ih =>
    refine ih ?_
    by_cases hqr : q = r
    · subst hqr
      exact .inr (readCfg_storeCfg_readCfg c src q)
    · rw [readCfg_storeCfg_other hqr]
      exact h.imp_left (List.mem_of_ne_of_mem hqr)

theorem mem_cfgRegs (r : CfgReg) : r ∈ cfgRegs := by cases r <;> decide

theorem copyCfg_cfgRegs (src c : Cfg) : copyCfg src cfgRegs c = src :=
  Cfg.eq_of_readCfg fun r => readCfg_copyCfg (.inl (mem_cfgRegs r))

theorem execAll_loadCfg (src : Cfg) {s : State} (hidle : s.status.state ≠ .busy) :
    execAll (loadCfg src) s = some (s.setCfg src) := by
  rw [loadCfg, execAll_cfgWrites src cfgRegs hidle, copyCfg_cfgRegs]

/-- The CFG registers stand at consecutive indices from 0x10 on (10_state R29). -/
theorem addrOfReg_cfgRegs_getElem? :
    ∀ k < 28, (cfgRegs[k]?.map fun r => addrOfReg (.cfg r)) = some (BitVec.ofNat 24 (0x10 + k)) := by decide

theorem loadCfg_getElem? (src : Cfg) {k : Nat} (hk : k < 28) :
    ∃ d, (loadCfg src)[k]? = some (.regWr (BitVec.ofNat 24 (0x10 + k)) d) := by
  obtain ⟨r, hr, haddr⟩ := Option.map_eq_some_iff.1 (addrOfReg_cfgRegs_getElem? k hk)
  exact ⟨readCfg src r, by rw [loadCfg, List.getElem?_map, hr, Option.map_some, haddr]⟩

/-- Settles O55: LOAD_RAW loads the derived constants as it would any configuration (log 20). -/
theorem loadRawWritesEveryCfgRegister : Obligations.LoadRawWritesEveryCfgRegister := by
  unfold Obligations.LoadRawWritesEveryCfgRegister
  intro p s hidle
  exact ⟨execAll_loadCfg (rawCfg p) hidle, List.length_map .., fun _ hk => loadCfg_getElem? (rawCfg p) hk⟩

end Sys2Proof.Machine

namespace Sys2Proof.Machine

/-! ## The checks of a tick, in their order (60_exceptions R254)

The cap and the period limit are `tick_of_cap` and `tick_of_cutoff`; the checks after them follow. -/

theorem tick_of_front_raised (sh : Shape) {s : State} {code : FaultCode} (hb : s.status.state = .busy)
    (hc : s.count.tickCount < s.maxTicks) (hf : front s = .raised code) : tick sh s = .next (raiseFault code s) := by
  rw [tick, if_pos hb, if_neg (Nat.not_le.2 hc), hf]

theorem tick_of_front_ended (sh : Shape) {s u : State} {reason : EndReason} (hb : s.status.state = .busy)
    (hc : s.count.tickCount < s.maxTicks) (hf : front s = .ended reason u) : tick sh s = .next (endRun reason u) := by
  rw [tick, if_pos hb, if_neg (Nat.not_le.2 hc), hf]

/-- A period that fits no 32 bits faults (42_oscillator R143). -/
theorem front_of_period_absent {s : State} (hp : periodStop (pitched s) = false)
    (hk : intPeriod (vibratoPeriod (modulated s)) = none) : front s = .raised .numRange := by
  simp only [front, hp, hk, Bool.false_eq_true, if_false]

/-- The end of the envelope's last stage ends the run (43_envelope R170). -/
theorem front_of_envStop {s : State} (hp : periodStop (pitched s) = false)
    (hk : (intPeriod (vibratoPeriod (modulated s))).isSome) (he : envStop (dutySlide (modulated s)) = true) :
    front s = .ended .envEnd (enveloped s) := by
  obtain ⟨iper, hiper⟩ := Option.isSome_iff_exists.1 hk
  simp only [front, hp, hiper, he, Bool.false_eq_true, if_false, if_true, enveloped]

/-- A flanger offset that is NaN faults (45_flanger R190). -/
theorem front_of_offset_nan {s : State} (hp : periodStop (pitched s) = false)
    (hk : (intPeriod (vibratoPeriod (modulated s))).isSome) (he : envStop (dutySlide (modulated s)) = false)
    (ho : Fp.isNaN (Fp.add (enveloped s).work.flangerOffset s.cfg.flangerSlide) = true) :
    front s = .raised .numRange := by
  obtain ⟨iper, hiper⟩ := Option.isSome_iff_exists.1 hk
  have hshift : flangerShift (flangerSlide (enveloped s)).work.flangerOffset = none := by
    rw [flangerShift_eq_none, flangerSlide_work, enveloped_cfg]
    exact ho
  rw [enveloped] at hshift
  simp only [front, frontTail, hp, hiper, he, hshift, Bool.false_eq_true, if_false]

/-- A tick that no check stops counts itself and the run goes on (41_sequencer R120). -/
theorem tick_goes_on {sh : Shape} {s : State} (hr : ReachesSubSamples s) (hsh : sh ≠ .illegal)
    (hroom : s.count.outCount < s.outDepth) :
    ∃ t, tick sh s = .next t ∧ t.status.state = .busy ∧ t.count.tickCount = s.count.tickCount + 1 := by
  obtain ⟨t, htick⟩ := tick_answers sh fun _ _ => hroom
  have hdone := completed_of_tick hr hsh htick
  exact ⟨t, htick, by rw [hdone.status]; exact hr.busy, by rw [hdone.count]⟩

/-- Settles O31: the checks of R254 are taken one by one, each after those before it have passed. -/
theorem firstCheckOfATickWins : Obligations.FirstCheckOfATickWins := by
  unfold Obligations.FirstCheckOfATickWins
  intro s w hbusy hroom
  rw [exec_decodeWave]
  simp only [pitched_period, ← periodStop_iff, ← envStop_iff]
  by_cases hcap : s.maxTicks ≤ s.count.tickCount
  · exact ⟨_, tick_of_cap _ hbusy hcap, (if_pos hcap).mpr ⟨rfl, rfl⟩⟩
  simp only [if_neg hcap]
  rw [Nat.not_le] at hcap
  by_cases hcutoff : periodStop (pitched s) = true
  · exact ⟨_, tick_of_cutoff _ hbusy hcap hcutoff, (if_pos hcutoff).mpr ⟨rfl, rfl⟩⟩
  simp only [if_neg hcutoff]
  rw [Bool.not_eq_true] at hcutoff
  by_cases hperiod : intPeriod (vibratoPeriod (modulated s)) = none
  · exact ⟨_, tick_of_front_raised _ hbusy hcap (front_of_period_absent hcutoff hperiod),
      (if_pos hperiod).mpr ⟨rfl, rfl⟩⟩
  simp only [if_neg hperiod]
  rw [← ne_eq, Option.ne_none_iff_isSome] at hperiod
  by_cases hend : envStop (dutySlide (modulated s)) = true
  · exact ⟨_, tick_of_front_ended _ hbusy hcap (front_of_envStop hcutoff hperiod hend),
      (if_pos hend).mpr ⟨rfl, rfl⟩⟩
  simp only [if_neg hend]
  rw [Bool.not_eq_true] at hend
  by_cases hoffset : Fp.isNaN (Fp.add (enveloped s).work.flangerOffset s.cfg.flangerSlide) = true
  · exact ⟨_, tick_of_front_raised _ hbusy hcap (front_of_offset_nan hcutoff hperiod hend hoffset),
      (if_pos hoffset).mpr ⟨rfl, rfl⟩⟩
  simp only [if_neg hoffset]
  rw [Bool.not_eq_true] at hoffset
  have hreaches : ReachesSubSamples s := ⟨hbusy, hcap, hcutoff, hperiod, hend, hoffset⟩
  by_cases hwave : 4 ≤ w.toNat
  · rw [(shapeOf_illegal w).2 hwave]
    exact ⟨_, tick_illegal hreaches, (if_pos hwave).mpr ⟨rfl, rfl⟩⟩
  · simp only [if_neg hwave]
    exact tick_goes_on hreaches (mt (shapeOf_illegal w).1 hwave) hroom

/-! ## Fault entry (60_exceptions R251) -/

/-- A tick of a run that comes to FAULT has raised a fault. -/
theorem TickCase.raised_of_fault {sh : Shape} {s t : State} (h : TickCase sh s t) (hb : s.status.state = .busy)
    (hfault : t.status.state = .fault) : ∃ code, code ≠ .none ∧ t = raiseFault code s := by
  cases h with
  | idle hidle _ => exact absurd hb hidle
  | cap _ _ ht => subst ht; cases hfault
  | cutoff _ _ _ ht => subst ht; cases hfault
  | envEnd _ _ _ _ ht => subst ht; cases hfault
  | raised code _ _ hcode ht => exact ⟨code, hcode, ht⟩
  | completed iper ishift u v acc _ _ _ _ _ _ hs hv ht =>
    obtain ⟨_, _, _, _, _, _, _, rfl⟩ := decimate_outputOnly hv
    obtain ⟨_, _, _, _, _, rfl⟩ := subSamples_primed_sound hs
    subst ht
    exact absurd (hb.symm.trans hfault) nofun

/-- Settles O33: the fault is raised on the state before the tick. -/
theorem faultUndoesTheTick : Obligations.FaultUndoesTheTick := by
  unfold Obligations.FaultUndoesTheTick
  intro s t w hbusy hexec hfault
  rw [exec_decodeWave] at hexec
  obtain ⟨code, hcode, rfl⟩ := (tick_cases hexec).raised_of_fault hbusy hfault
  refine ⟨?_, raiseFault_eq code s⟩
  cases code with
  | none => exact absurd rfl hcode
  | badWave => exact .inl rfl
  | numRange => exact .inr rfl

/-! ## Host transactions and STATE (60_exceptions R253, R256) -/

/-- No host transaction writes the output memories, the parameters or the environment's inputs. -/
theorem HostCase.frame {s t : State} (h : HostCase s t) :
    t.pcm = s.pcm ∧ t.norm = s.norm ∧ t.maxTicks = s.maxTicks ∧ t.outDepth = s.outDepth ∧ t.bus = s.bus ∧
      t.turns = s.turns := by
  cases h with
  | answered _ _ _ ht => exact ht ▸ ⟨rfl, rfl, rfl, rfl, rfl, rfl⟩
  | ctrl _ _ ht => exact ht ▸ ⟨rfl, rfl, rfl, rfl, rfl, rfl⟩
  | cfg _ _ ht => exact ht ▸ ⟨rfl, rfl, rfl, rfl, rfl, rfl⟩
  | started _ _ ht => exact ht ▸ ⟨rfl, rfl, rfl, rfl, rfl, rfl⟩
  | reset _ ht => exact ht ▸ ⟨rfl, rfl, rfl, rfl, rfl, rfl⟩

/-- A host transaction keeps STATE and the fault code, or, outside BUSY, begins a run or goes back to IDLE with no fault
code (60_exceptions R256). -/
theorem HostCase.state {s t : State} (h : HostCase s t) :
    (t.status.state = s.status.state ∧ t.status.faultCode = s.status.faultCode) ∨
      (s.status.state ≠ .busy ∧ (t.status.state = .busy ∨ t.status.state = .idle) ∧ t.status.faultCode = .none) := by
  cases h with
  | answered _ _ hv ht => exact .inl (ht ▸ ⟨hv.state, hv.faultCode⟩)
  | ctrl _ _ ht => exact .inl (ht ▸ ⟨rfl, rfl⟩)
  | cfg _ _ ht => exact .inl (ht ▸ ⟨rfl, rfl⟩)
  | started hidle _ ht => exact .inr (ht ▸ ⟨hidle, .inl rfl, rfl⟩)
  | reset hidle ht => exact .inr (ht ▸ ⟨hidle, .inr rfl, rfl⟩)

theorem guardedWrite_state {s t : State} (h : t.status.state = s.status.state) :
    (guardedWrite s t).status.state = s.status.state := by
  unfold guardedWrite
  split
  · rfl
  · exact h

/-- Only a write to CMD can change STATE (40_host_ops R101). -/
theorem writeReg_state {r : Reg} (hr : r ≠ .cmd) (d : Reg64) (s : State) :
    (writeReg r d s).status.state = s.status.state := by
  cases r with
  | cmd => exact absurd rfl hr
  | status => rfl
  | ctrl => exact guardedWrite_state rfl
  | ro q => rfl
  | cfg q => exact guardedWrite_state rfl

/-- A transaction that is neither START nor RESET keeps STATE; a write to CMD is a command's, not a REG_WR's. -/
theorem exec_bus_state {i : Instr} {s t : State} (hport : i.port = .bus) (hwf : i.wellFormed = true)
    (hother : ∀ hi, i ≠ .cmdStart hi ∧ i ≠ .cmdReset hi) (h : exec i s = .next t) :
    t.status.state = s.status.state := by
  cases i with
  | regRd a =>
    simp only [exec, execRegRd] at h
    split at h <;> cases h <;> rfl
  | regWr a d =>
    cases hr : regOfAddr a with
    | none =>
      rw [exec_regWr_unmapped hr] at h
      cases h
      rfl
    | some r =>
      obtain rfl := (regOfAddr_eq_some a r).1 hr
      have hcmd : r ≠ .cmd := fun hr => bne_iff_ne.1 hwf (hr ▸ rfl)
      rw [exec_regWr_addrOfReg] at h
      cases h
      exact writeReg_state hcmd d s
  | pcmRd a =>
    simp only [exec, execPcmRd] at h
    split at h <;> cases h <;> rfl
  | normRd a =>
    simp only [exec, execNormRd] at h
    split at h <;> cases h <;> rfl
  | reservedOp w => cases h; rfl
  | cmdNop hi => cases h; rfl
  | cmdStart hi => exact absurd rfl (hother hi).1
  | cmdReset hi => exact absurd rfl (hother hi).2
  | cmdReserved hi code => cases h; rfl
  | waveSquare => cases hport
  | waveSaw => cases hport
  | waveSine => cases hport
  | waveNoise => cases hport
  | waveIllegal code => cases hport

/-- Settles O22: completion and frame by the inversion of host transactions, and START and RESET are the only way out of
a STATE other than BUSY. -/
theorem hostTransactionsNeverFault : Obligations.HostTransactionsNeverFault := by
  unfold Obligations.HostTransactionsNeverFault
  intro i s hport hwf
  obtain ⟨t, hexec, hcase⟩ := exec_bus_cases i hport s
  obtain ⟨hpcm, hnorm, hticks, hdepth, hbus, hturns⟩ := hcase.frame
  refine ⟨t, hexec, hpcm, hnorm, hticks, hdepth, hbus, hturns,
    fun hother => exec_bus_state hport hwf hother hexec, ?_⟩
  rcases hcase.state with ⟨hstate, hcode⟩ | ⟨hidle, hnew, hcode⟩
  · exact ⟨hstate.trans, hstate.symm.trans, .inl hcode⟩
  · have hnoFault : t.status.state ≠ .fault := by rcases hnew with h | h <;> rw [h] <;> decide
    exact ⟨fun hb => absurd hb hidle, fun hf => absurd hf hnoFault, .inr hcode⟩

/-! ## The interrupt output (60_exceptions R260, R261) -/

theorem irq_iff (s : State) : s.irq = true ↔ s.ctrl.irqEn = true ∧ s.status.evt = true := by
  rw [State.irq, Bool.and_eq_true]

/-- Settles O53: a raised IRQ means EVT, which the invariant ties to the end of a run. -/
theorem irqMeansTheRunIsOver : Obligations.IrqMeansTheRunIsOver := by
  unfold Obligations.IrqMeansTheRunIsOver
  intro s
  exact ⟨irq_iff s, fun hinv hirq => hinv.event ((irq_iff s).1 hirq).2⟩

end Sys2Proof.Machine
